-- ==== Sys2Proof/Word.lean ====
section
/-! DEFINITION. The byte, and the named values and groups of fields that the manual's commands and registers share
(01 section 1.1, 03 section 3.2, 06 R114 and R121, 07 R130, 11 R190, 12 R197). -/

namespace Sys2Proof

/-- One byte on a port line. -/
abbrev Byte := BitVec 8

/-- The four ports (R174). -/
inductive Port | a | b | c | d
  deriving DecidableEq, Repr

/-- The two feeds (R22). -/
inductive Feed | a | b
  deriving DecidableEq, Repr

/-- The role a port's position fixes (R174). -/
inductive Role | feed | control | screen
  deriving DecidableEq, Repr

/-- Ports A and B carry the feed role, C the control role, D the screen role (R174). -/
def Port.role : Port → Role
  | .a => .feed
  | .b => .feed
  | .c => .control
  | .d => .screen

/-- The feed bound to a port (R22). -/
def Port.feed? : Port → Option Feed
  | .a => some .a
  | .b => some .b
  | .c => none
  | .d => none

/-- The other feed: the partner of a crossing opened by this one (03 section 3.1). -/
def Feed.other : Feed → Feed
  | .a => .b
  | .b => .a

/-- The trust level of a time, best first (R197; LOCAL is `localRc`, the RC oscillator's). -/
inductive Quality | exact | tracked | holdover | localRc
  deriving DecidableEq, Repr

/-- The four clock sources (R130). -/
inductive Source | sync | beacon | xo | rc
  deriving DecidableEq, Repr

/-- The two sources that are judged by marks (R131). -/
inductive Reference | sync | beacon
  deriving DecidableEq, Repr

def Reference.source : Reference → Source
  | .sync => .sync
  | .beacon => .beacon

/-- The start target of the setup block (R144, R190). -/
inductive StartTarget | sync | beacon | xo
  deriving DecidableEq, Repr

def StartTarget.source : StartTarget → Source
  | .sync => .sync
  | .beacon => .beacon
  | .xo => .xo

/-- The state of a runner record (R1). -/
inductive RunnerState | empty | entered | withdrawn
  deriving DecidableEq, Repr

/-- All the fields of a runner record but its check code (01 section 1.1). -/
structure RecordFields where
  state : RunnerState
  suspect : Bool
  wave : Nat
  division : Nat
  featured : Bool
  nameTag : Nat
  start : Option Nat
  made : Nat
  last : Option Nat
  deriving DecidableEq, Repr

/-- The six point settings (03 section 3.2): metres, milliseconds, minutes, seconds. -/
structure PointSettings where
  passes : Nat
  distance1 : Nat
  distance2 : Nat
  settleWindow : Nat
  rearmGap : Nat
  lateLimit : Nat
  deriving DecidableEq, Repr

/-- The six board settings (R121). -/
structure BoardSettings where
  rows : Nat
  dwellLead : Nat
  dwellFeat : Nat
  dwellFlow : Nat
  leadDepth : Nat
  quietInterval : Nat
  deriving DecidableEq, Repr

/-- The page kinds a rotation slot may name (R114); PATTERN cannot stand in the rotation (R117). -/
inductive SlotKind | leaders | featured | flow | clock
  deriving DecidableEq, Repr

/-- One slot of the rotation list (R114). -/
structure Slot where
  kind : SlotKind
  hold : Nat
  deriving DecidableEq, Repr

/-- The items of the setup block, each of which has a working copy (R190). -/
structure Settings where
  startTarget : StartTarget
  failSafe : Bool
  integrityOn : Bool
  point : PointSettings
  holdTimeout : Nat
  board : BoardSettings
  rotation : List Slot
  deriving DecidableEq, Repr

/-- What causes a warm restart (R196): a reset pulse of 1 to 100 ms, or an accepted RESTART. -/
inductive RestartCause | pulse | request
  deriving DecidableEq, Repr

end Sys2Proof
end

