-- ==== Sys2Proof/Syntax.lean ====
section
/-! DEFINITION. The commands: one constructor for each row of spec/opcode_table.json. -/

namespace Sys2Proof

/-- The steps of the part (95_what_each_step_holds.md). A request row carries the port that takes the request: the request
itself is the oldest frame of that port's receive buffer (R179; log entry 1). A row about bytes on a line carries the
bytes received up to the step (R176, R177; log entry 4). -/
inductive Instr
  -- the course link (10)
  | frameArrival (p : Port) (bytes : List Byte)
  | crcDiscard (p : Port) (bytes : List Byte)
  | lengthDiscard (p : Port) (bytes : List Byte)
  | framingError (p : Port) (bytes : List Byte)
  | gapExpiry (p : Port)
  | frameSent (p : Port)
  | requestOfNoKind (p : Port)
  -- requests of the feeds, and of every role
  | report (p : Port)
  | matState (p : Port)
  | time (p : Port)
  | describe (p : Port)
  | page (p : Port)
  -- requests of race control: the directory (01)
  | runnerLoad (p : Port)
  | runnerRead (p : Port)
  | aliasSet (p : Port)
  | aliasClear (p : Port)
  | waveStart (p : Port)
  | waveSet (p : Port)
  -- the crossing engine, the hold unit and the split log (03, 04, 05)
  | pointSet (p : Port)
  | holdsRead (p : Port)
  | holdResolveAdmit (p : Port)
  | holdResolveReject (p : Port)
  | holdTimeoutSet (p : Port)
  | splitsRead (p : Port)
  -- the board (06)
  | boardSet (p : Port)
  | rotationSet (p : Port)
  | patternSet (p : Port)
  -- the race clock (07)
  | gunSet (p : Port)
  | timeBeacon (p : Port)
  | clockSelect (p : Port)
  | clockLock (p : Port)
  | clockFailClear (p : Port)
  | clockSetup (p : Port)
  | deferredFallback
  -- corrections (08)
  | withdraw (p : Port)
  | reinstate (p : Port)
  | amend (p : Port)
  | crossingEnter (p : Port)
  -- faults and status (09)
  | faultRead (p : Port)
  | faultClearOrdinary (p : Port)
  | faultClearIntegrity (p : Port)
  | integritySet (p : Port)
  | statusRead (p : Port)
  -- setup and restart (11)
  | setupStore (p : Port)
  | setupWriteEnd
  | restart (p : Port)
  -- events of the blocks
  | readJudgement
  | deadlineExpiry (bib : Nat)
  | silenceExpiry (feed : Feed)
  | holdTimeoutExpiry (chip : Nat)
  | releaseMove
  | quietExpiry
  -- signals of the timebase (07): `cycles` is the number of XO cycles counted in the window
  | syncMark
  | missingPeriod (ref : Reference)
  | xoQualify
  | xoGap
  | comparisonWindowEnd (cycles : Nat)
  | switchCompletion
  | leadSlew
  -- resets and storage (02, 11): the straps are read at the cold reset (R189)
  | warmRestart (cause : RestartCause)
  | coldReset (strap1 strap0 : Bool)
  | recordUpset (bib : Nat) (content : RecordFields)
  | setupBlockChange (items : Settings)
  | resetRisingEdge
  deriving DecidableEq, Repr

end Sys2Proof
end

