-- ==== Sys2Proof/Decode.lean ====
section
/-! DEFINITION. The table gives no row any bits, so no word spells a command. The byte layouts of the frames on the port
lines (12) are read in Sys2Proof/Machine/Operands.lean. -/

namespace Sys2Proof

/-- The command a word spells by the table's bits: spec/opcode_table.json gives no row any fixed bits or fields, so none. -/
def decodeTableWord (_nbits _w : Nat) : Option Instr := none

end Sys2Proof
end

