-- ==== Sys2Proof/Config.lean ====
section
/-! DEFINITION. The free values: what the manual leaves open, as constants without a body, so that nothing proved about the
machine can rest on a choice of theirs. Each is applied to the model's own counter `State.choices` or to the operand it
depends on. -/

namespace Sys2Proof

/-- Which of several events due at the same moment is taken first (R56, R81, R100, R124, R139 and others give either
order); applied to `State.choices`, read modulo the number of events due (log entry 3). -/
opaque Config.dueOrder : Nat → Nat

/-- How many XO cycles pass in one millisecond of the counting oscillator while the XO is STARTING (R134: each cycle
raises the count, the crystal is outside the part); applied to `State.choices` (log entry 8). -/
opaque Config.xoCycles : Nat → Nat

/-- What the 4-byte race time field of an answer carries for a race time of 2^32 ms or more, for which R197 states no
encoding (log entry 10). -/
opaque Config.wideRaceTime : Nat → Nat

end Sys2Proof
end

