-- ==== Sys2Proof/Machine/Limits.lean ====
section
/-! DEFINITION. The fixed numbers of the part: capacities (00_scope.md, R186), fixed intervals and the default settings (R190). -/

namespace Sys2Proof.Machine

/-- Bibs run from 1 to 60,000 (01 section 1.1); higher chip codes are alias codes (01 section 1.6). -/
def maxBib : Nat := 60000
/-- The bound of the read, gun, crossing and start times that the part keeps (R128). -/
def maxRaceTime : Nat := 86400000
/-- The last course time (R127). -/
def maxCourseTime : Nat := 281474976710655
/-- The bound of the 32-bit saturating counts (02 section 2.7, R177). -/
def maxCount : Nat := 4294967295
def aliasCap : Nat := 256
def crossingCap : Nat := 2048
def holdCap : Nat := 64
def releaseCap : Nat := 64
def feedQueueCap : Nat := 512
def logCap : Nat := 8192
def leadCap : Nat := 16
def featCap : Nat := 64
def flowCap : Nat := 256
def bufferCap : Nat := 4
def answerCap : Nat := 4
def noticeCap : Nat := 15
/-- The silence interval (R24). -/
def silenceInterval : Nat := 5000
/-- The lone window (03 section 3.2). -/
def loneWindow : Nat := 1000
/-- The future tolerance (R46). -/
def futureTolerance : Nat := 2000
/-- The missing watch of a reference (R131). -/
def missingInterval : Nat := 1500
/-- The gap bound between two bytes of a frame (R177). -/
def gapBound : Nat := 10
/-- The longest setup write (R192). -/
def setupWriteBound : Nat := 40
/-- From this newest sequence on AMEND, WITHDRAW and REINSTATE are refused FULL (R97). -/
def correctionLimit : Nat := 4294847295

/-- The default point settings (03 section 3.2). -/
def defaultPoint : PointSettings := ⟨1, 21098, 42195, 8000, 40, 120⟩

/-- The default board settings (R121). -/
def defaultBoard : BoardSettings := ⟨8, 6, 4, 1, 3, 60⟩

/-- The default rotation list (R114). -/
def defaultRotation : List Slot := [⟨.leaders, 10⟩, ⟨.featured, 6⟩, ⟨.flow, 20⟩, ⟨.clock, 4⟩]

/-- The defaults of every setup item (R190). -/
def defaultSettings : Settings :=
  { startTarget := .xo, failSafe := true, integrityOn := true, point := defaultPoint, holdTimeout := 15,
    board := defaultBoard, rotation := defaultRotation }

/-- A runner record's fields after cold reset (R21). -/
def initialFields : RecordFields :=
  { state := .empty, suspect := false, wave := 0, division := 0, featured := false, nameTag := 0, start := none,
    made := 0, last := none }

end Sys2Proof.Machine
end

