-- ==== Sys2Proof/Machine/State.lean ====
section
/-! DEFINITION. The state of the part, block by block as the manual's chapters give it, the reasons a step can stop, and the
state after reset. INVENTORY.md lists every piece with the rule that names it. -/

namespace Sys2Proof.Machine

/-! ### The link ports (10) -/

/-- A frame of the course link without its envelope bytes: kind, tag and payload (R175). -/
structure Frame where
  kind : Byte
  tag : BitVec 16
  payload : List Byte
  deriving DecidableEq, Repr

/-- A frame in a transmit queue, with the mark that it is the ACK of a RESTART, whose last byte makes the restart due (R194). -/
structure TxFrame where
  frame : Frame
  restart : Bool
  deriving DecidableEq, Repr

/-- One port (R174). -/
structure PortState where
  /-- the bytes of the frame being assembled, from its start byte on; empty while hunting (R176) -/
  line : List Byte
  /-- the course time at which the last byte was received; read only while a frame is being assembled (R177) -/
  lastByteAt : Nat
  /-- the receive buffer, oldest first (R178) -/
  buffer : List Frame
  /-- the request in work between its take and its answer (R179) -/
  inWork : Option Frame
  /-- the transmit queue, oldest first (R184) -/
  tx : List TxFrame
  /-- the frame-discard count (R177) -/
  discards : Nat
  deriving DecidableEq, Repr

/-- The four ports. -/
structure Ports where
  a : PortState
  b : PortState
  c : PortState
  d : PortState
  deriving DecidableEq, Repr

/-- The four line rates (R188). -/
inductive LineRate | baud115200 | baud460800 | baud921600 | baud2000000
  deriving DecidableEq, Repr

/-! ### The feed intakes (02) -/

inductive LinkState | silent | active
  deriving DecidableEq, Repr

inductive MatState | disarmed | armed
  deriving DecidableEq, Repr

/-- A read in a feed queue (02 section 2.1). -/
structure Read where
  chip : Nat
  time : Nat
  quality : Quality
  deriving DecidableEq, Repr

/-- The twelve outcome counts (02 section 2.7). -/
structure OutcomeCounts where
  queued : Nat
  opened : Nat
  merged : Nat
  held : Nat
  stray : Nat
  excess : Nat
  future : Nat
  beforeGun : Nat
  withdrawn : Nat
  barred : Nat
  timedOut : Nat
  lost : Nat
  deriving DecidableEq, Repr

/-- One feed intake (02 section 2.1). -/
structure FeedState where
  link : LinkState
  lastFrame : Option Nat
  mat : MatState
  queue : List Read
  counts : OutcomeCounts
  deriving DecidableEq, Repr

structure Feeds where
  a : FeedState
  b : FeedState
  deriving DecidableEq, Repr

/-! ### The runner directory (01) -/

/-- A runner record: its fields, and its check code, held as the fields it was computed over (R2; log entry 5). -/
structure RunnerRecord where
  fields : RecordFields
  codedFor : RecordFields
  deriving DecidableEq, Repr

/-- The runner directory. `records`, `waves` and `places` list what differs from the value after cold reset, keys rising:
a bib not listed holds the initial record, a wave not listed is WAITING, a place counter not listed is 0. -/
structure Directory where
  records : List (Nat × RunnerRecord)
  aliasMap : List (Nat × Nat)
  waves : List (Nat × Nat)
  places : List (Nat × Nat)
  integrityOn : Bool
  deriving DecidableEq, Repr

/-! ### The crossing engine (03) -/

/-- An open crossing (03 section 3.1); `seenA`, `seenB` are its feeds seen. -/
structure OpenCrossing where
  bib : Nat
  pass : Nat
  opener : Feed
  seenA : Bool
  seenB : Bool
  time : Nat
  quality : Quality
  held : Bool
  openedAt : Nat
  deadline : Nat
  deriving DecidableEq, Repr

/-- The three queues of the intake arbiter (R42). -/
inductive Turn | feedA | feedB | release
  deriving DecidableEq, Repr

structure Engine where
  crossings : List OpenCrossing
  nextTurn : Turn
  point : PointSettings
  deriving DecidableEq, Repr

/-! ### The hold unit (04) -/

/-- A hold's reason with the bib and wave that go with it (the table of 04 section 4.1). -/
inductive HoldReason
  | unknownChip
  | wave (bib wave : Nat)
  | suspect (bib : Nat)
  deriving DecidableEq, Repr

/-- A hold list entry (04 section 4.1). -/
structure HoldEntry where
  chip : Nat
  reason : HoldReason
  feed : Feed
  time : Nat
  quality : Quality
  count : Nat
  enteredAt : Nat
  releasing : Bool
  deriving DecidableEq, Repr

/-- A released read (R80), with what a warm restart needs to return it to the list (R85). -/
structure ReleasedRead where
  chip : Nat
  feed : Feed
  time : Nat
  quality : Quality
  reason : HoldReason
  count : Nat
  deriving DecidableEq, Repr

structure HoldUnit where
  list : List HoldEntry
  release : List ReleasedRead
  holdOver : Bool
  timeout : Nat
  deriving DecidableEq, Repr

/-! ### The split log (05) -/

/-- The flags of a split (R89). -/
structure SplitFlags where
  featured : Bool
  bothFeeds : Bool
  approx : Bool
  late : Bool
  held : Bool
  noStart : Bool
  deriving DecidableEq, Repr

inductive EntryKind | posted | manual | amended | voided | reinstated
  deriving DecidableEq, Repr

/-- The figures of a POSTED, MANUAL or AMENDED entry (R93). -/
structure Figures where
  pass : Nat
  time : Nat
  gunSplit : Nat
  chipSplit : Nat
  pace : Nat
  deriving DecidableEq, Repr

/-- A split log entry (R93): `figures` is absent for VOIDED and REINSTATED. -/
structure LogEntry where
  seq : Nat
  kind : EntryKind
  bib : Nat
  figures : Option Figures
  place : Option Nat
  flags : SplitFlags
  deriving DecidableEq, Repr

structure SplitLog where
  entries : List LogEntry
  newest : Nat
  deriving DecidableEq, Repr

/-! ### The board (06) -/

/-- A board posting (R103). -/
structure BoardPosting where
  seq : Nat
  bib : Nat
  pass : Nat
  nameTag : Nat
  division : Nat
  chipSeconds : Nat
  pace : Nat
  place : Nat
  flags : SplitFlags
  amended : Bool
  shows : Nat
  deriving DecidableEq, Repr

/-- The board. `lastOffer` is the time of the last offer while the board is LIVE and absent while it is QUIET (R118). -/
structure Board where
  lead : List BoardPosting
  feat : List BoardPosting
  flow : List BoardPosting
  banner : Nat
  lastOffer : Option Nat
  pattern : Nat
  slot : Nat
  pageCount : Nat
  settings : BoardSettings
  rotation : List Slot
  deriving DecidableEq, Repr

/-! ### The timebase (07) -/

inductive SourceState | starting | qualified | failed
  deriving DecidableEq, Repr

/-- SYNC or BEACON (R130, R131). -/
structure RefState where
  state : SourceState
  count : Nat
  misses : Nat
  reference : Option Nat
  watch : Nat
  deriving DecidableEq, Repr

/-- The XO (R134); `windowGap` says that the comparison window under way has had a gap. -/
structure XoState where
  state : SourceState
  count : Nat
  windowGap : Bool
  deriving DecidableEq, Repr

/-- The timebase. `epoch` is absent while the race clock is UNSET (R128). `oscMs` counts the milliseconds of the counting
oscillator in its present second (R136). `secondTaken` is the last whole second whose event has been taken (log entry 12).
`fallbackDue` says that the fallback of a CLOCK SETUP that turned fail-safe on has not been taken yet (R144). -/
structure Timebase where
  courseTime : Nat
  oscMs : Nat
  epoch : Option Nat
  sync : RefState
  beacon : RefState
  xo : XoState
  current : Source
  requested : Option Source
  lead : Int
  lock : Bool
  clockFail : Bool
  failSafe : Bool
  startTarget : StartTarget
  secondTaken : Nat
  fallbackDue : Bool
  deriving DecidableEq, Repr

/-! ### The fault unit (09) -/

inductive FaultKind | setup | timebase | crossingFull | holdFull | feed
  deriving DecidableEq, Repr

/-- One item of the fault set (R162): `first` holds first time and first detail. -/
structure FaultItem where
  count : Nat
  pending : Bool
  first : Option (Nat × Nat)
  deriving DecidableEq, Repr

structure FaultSet where
  setup : FaultItem
  timebase : FaultItem
  crossingFull : FaultItem
  holdFull : FaultItem
  feed : FaultItem
  deriving DecidableEq, Repr

/-- The fault record (R163); the detail is the 4-byte code of R197. -/
structure FaultRecord where
  kind : FaultKind
  time : Nat
  detail : Nat
  deriving DecidableEq, Repr

/-- The integrity record (R167). -/
structure IntegrityRecord where
  bib : Nat
  time : Nat
  further : Nat
  deriving DecidableEq, Repr

structure FaultUnit where
  record : Option FaultRecord
  integrity : Option IntegrityRecord
  set : FaultSet
  warm : Bool
  deriving DecidableEq, Repr

/-! ### The setup store (11) -/

/-- The setup block (R190): its items, and its check code, held as the items it was computed over; absent when the block
has never been written or a write of it was cut (R192; log entry 5). -/
structure SetupBlock where
  items : Settings
  codedFor : Option Settings
  deriving DecidableEq, Repr

/-- A write in progress: the copy taken and the course time of the take (R192). -/
structure SetupWrite where
  copy : Settings
  began : Nat
  deriving DecidableEq, Repr

structure SetupStore where
  block : SetupBlock
  writing : Option SetupWrite
  deriving DecidableEq, Repr

/-! ### The whole part -/

/-- Why a step stops with a fault. -/
inductive Fault
  /-- Course time would pass 281,474,976,710,655 ms, which the manual says it does not reach (R127). Raised by the
  millisecond of the empty queue and by LEAD_SLEW. Safe: the model stops where the manual gives no effect (log entry 9). -/
  | courseTimeEnds
  deriving DecidableEq, Repr

/-- Why a step is refused. -/
inductive Refusal
  /-- The command has no meaning in the model yet; raised by an arm of `exec` only. Safe: the model stops. -/
  | notModelled (mnemonic : String)
  deriving DecidableEq, Repr

/-- The state of the part, and the model's own command queue (`pending`, first in first out) and counter for the free values
(`choices`; log entry 25). -/
structure State where
  ports : Ports
  lineRate : LineRate
  feeds : Feeds
  dir : Directory
  engine : Engine
  hold : HoldUnit
  log : SplitLog
  board : Board
  clock : Timebase
  faults : FaultUnit
  setup : SetupStore
  /-- held in cold reset while the reset input stays low (R193) -/
  held : Bool
  /-- the restart of an accepted RESTART is due (R194) -/
  restartDue : Bool
  choices : Nat
  pending : List Instr
  deriving DecidableEq, Repr

/-! ### The values after cold reset -/

/-- A port after cold reset (R187). -/
def PortState.cold : PortState :=
  { line := [], lastByteAt := 0, buffer := [], inWork := none, tx := [], discards := 0 }

def OutcomeCounts.zero : OutcomeCounts :=
  { queued := 0, opened := 0, merged := 0, held := 0, stray := 0, excess := 0, future := 0, beforeGun := 0,
    withdrawn := 0, barred := 0, timedOut := 0, lost := 0 }

/-- A feed intake after cold reset (R37). -/
def FeedState.cold : FeedState :=
  { link := .silent, lastFrame := none, mat := .armed, queue := [], counts := OutcomeCounts.zero }

/-- A record after cold reset, its check code computed for that content (R21). -/
def RunnerRecord.initial : RunnerRecord := { fields := initialFields, codedFor := initialFields }

/-- SYNC or BEACON after cold reset (R131, R146). -/
def RefState.cold : RefState := { state := .starting, count := 0, misses := 0, reference := none, watch := 1500 }

def FaultItem.never : FaultItem := { count := 0, pending := false, first := none }

/-- A setup block that has never been written (R190): it fails its check. Its items are not read (log entry 6). -/
def SetupBlock.unwritten : SetupBlock := { items := defaultSettings, codedFor := none }

/-- Every block at its initial state (R195), the part held in reset (log entry 20), before the load of R191: the working settings stand at
their defaults until the load, and no source is requested. `rate` is what the straps select, `block` the setup block. -/
def State.cold (rate : LineRate) (block : SetupBlock) : State :=
  { ports := { a := PortState.cold, b := PortState.cold, c := PortState.cold, d := PortState.cold }
    lineRate := rate
    feeds := { a := FeedState.cold, b := FeedState.cold }
    dir := { records := [], aliasMap := [], waves := [], places := [], integrityOn := true }
    engine := { crossings := [], nextTurn := .feedA, point := defaultPoint }
    hold := { list := [], release := [], holdOver := false, timeout := 15 }
    log := { entries := [], newest := 0 }
    board := { lead := [], feat := [], flow := [], banner := 0, lastOffer := none, pattern := 0, slot := 0,
               pageCount := 0, settings := defaultBoard, rotation := defaultRotation }
    clock := { courseTime := 0, oscMs := 0, epoch := none, sync := RefState.cold, beacon := RefState.cold,
               xo := { state := .starting, count := 0, windowGap := false }, current := .rc, requested := none, lead := 0,
               lock := false, clockFail := false, failSafe := true, startTarget := .xo, secondTaken := 0,
               fallbackDue := false }
    faults := { record := none, integrity := none,
                set := { setup := FaultItem.never, timebase := FaultItem.never, crossingFull := FaultItem.never,
                         holdFull := FaultItem.never, feed := FaultItem.never },
                warm := false }
    setup := { block := block, writing := none }
    held := true
    restartDue := false
    choices := 0
    pending := [] }

/-- The FAULT NOTICE that a cold start on a failing setup block places (R191, R164): class ordinary, SETUP, course time 0,
detail *check*, count 1, nothing pending. -/
def setupNotice : TxFrame :=
  { frame := { kind := 0x90#8, tag := 0#16,
               payload := [0#8, 0#8, 0#8, 0#8, 0#8, 0#8, 0#8, 0#8, 0#8, 0#8, 0#8, 0#8, 1#8, 0#8] }
    restart := false }

/-- The machine right after reset: a new part, its setup block never written (log entry 6), its straps both low (log entry 7),
released from a cold reset. The load of R191 has found the block failing: every setting is at its default, the start target
is requested, and SETUP has been captured and announced. `Laws.reset_is_cold_start` says that this is what COLD_RESET and
RESET_RISING_EDGE give. -/
def State.reset : State :=
  let s := State.cold .baud115200 SetupBlock.unwritten
  { s with
    held := false
    ports := { s.ports with c := { s.ports.c with tx := [setupNotice] } }
    clock := { s.clock with requested := some .xo }
    faults := { s.faults with
      record := some { kind := .setup, time := 0, detail := 0 }
      set := { s.faults.set with setup := { count := 1, pending := false, first := some (0, 0) } } } }

end Sys2Proof.Machine
end

