-- ==== Sys2Proof/WellFormed.lean ====
section
/-! DEFINITION. When a command's operands are ones the part can meet: bibs, chip codes and record contents in the ranges of
the manual's tables. -/

namespace Sys2Proof

/-- A runner's number: 1 to 60,000; bib 0 is invalid everywhere (00_scope.md, 01 section 1.1). -/
def bibOk (bib : Nat) : Bool := decide (1 ≤ bib) && decide (bib ≤ 60000)

/-- A chip code that a read can carry: a 32-bit number other than 0 (01 section 1.6). -/
def chipOk (chip : Nat) : Bool := decide (1 ≤ chip) && decide (chip < 4294967296)

/-- A race time that the part keeps: 0 to 86,400,000 ms (01 section 1.1, R128). -/
def raceTimeOk (t : Nat) : Bool := decide (t ≤ 86400000)

/-- The ranges of a runner record's fields (the table of 01 section 1.1, which R2 cites). -/
def RecordFields.inRange (r : RecordFields) : Bool :=
  decide (r.wave ≤ 31) && decide (r.division ≤ 7) && decide (r.nameTag ≤ 65535) && decide (r.made ≤ 2)
    && r.start.all raceTimeOk && r.last.all raceTimeOk && (r.last.isSome == decide (1 ≤ r.made))

/-- The operands of a command lie in the ranges of the manual. A command that is not well-formed names no step of the
part: its meaning leaves the state as it is (log entry 2). -/
def Instr.wf : Instr → Bool
  | .deadlineExpiry bib => bibOk bib
  | .holdTimeoutExpiry chip => chipOk chip
  | .recordUpset bib content => bibOk bib && content.inRange
  | .frameArrival _ _ => true
  | .crcDiscard _ _ => true
  | .lengthDiscard _ _ => true
  | .framingError _ _ => true
  | .gapExpiry _ => true
  | .frameSent _ => true
  | .requestOfNoKind _ => true
  | .report _ => true
  | .matState _ => true
  | .time _ => true
  | .describe _ => true
  | .page _ => true
  | .runnerLoad _ => true
  | .runnerRead _ => true
  | .aliasSet _ => true
  | .aliasClear _ => true
  | .waveStart _ => true
  | .waveSet _ => true
  | .pointSet _ => true
  | .holdsRead _ => true
  | .holdResolveAdmit _ => true
  | .holdResolveReject _ => true
  | .holdTimeoutSet _ => true
  | .splitsRead _ => true
  | .boardSet _ => true
  | .rotationSet _ => true
  | .patternSet _ => true
  | .gunSet _ => true
  | .timeBeacon _ => true
  | .clockSelect _ => true
  | .clockLock _ => true
  | .clockFailClear _ => true
  | .clockSetup _ => true
  | .deferredFallback => true
  | .withdraw _ => true
  | .reinstate _ => true
  | .amend _ => true
  | .crossingEnter _ => true
  | .faultRead _ => true
  | .faultClearOrdinary _ => true
  | .faultClearIntegrity _ => true
  | .integritySet _ => true
  | .statusRead _ => true
  | .setupStore _ => true
  | .setupWriteEnd => true
  | .restart _ => true
  | .readJudgement => true
  | .silenceExpiry _ => true
  | .releaseMove => true
  | .quietExpiry => true
  | .syncMark => true
  | .missingPeriod _ => true
  | .xoQualify => true
  | .xoGap => true
  | .comparisonWindowEnd _ => true
  | .switchCompletion => true
  | .leadSlew => true
  | .warmRestart _ => true
  | .coldReset _ _ => true
  | .setupBlockChange _ => true
  | .resetRisingEdge => true

end Sys2Proof
end

