-- ==== Sys2Proof/Machine/Operands.lean ====
section
/-! DEFINITION. The bytes of the course link: little-endian fields, the CRC and the search for frames (10 R175-R177), the codes
of R197, and the layout of every request's payload (R182, R198, R200). A reader of a layout answers `none` where the content
does not fit it, which is refused FORMAT. -/

namespace Sys2Proof

/-! ### Codes (R197) -/

def Port.code : Port → Nat
  | .a => 0 | .b => 1 | .c => 2 | .d => 3

def Feed.code : Feed → Nat
  | .a => 0 | .b => 1

def Role.code : Role → Nat
  | .feed => 0 | .control => 1 | .screen => 2

def Quality.code : Quality → Nat
  | .exact => 0 | .tracked => 1 | .holdover => 2 | .localRc => 3

def Quality.ofCode? : Nat → Option Quality
  | 0 => some .exact | 1 => some .tracked | 2 => some .holdover | 3 => some .localRc | _ => none

def Source.code : Source → Nat
  | .sync => 0 | .beacon => 1 | .xo => 2 | .rc => 3

def Source.ofCode? : Nat → Option Source
  | 0 => some .sync | 1 => some .beacon | 2 => some .xo | 3 => some .rc | _ => none

/-- The requested source: a source, or FF for none. -/
def requestedCode : Option Source → Nat
  | none => 0xFF
  | some r => r.code

def StartTarget.code : StartTarget → Nat
  | .sync => 0 | .beacon => 1 | .xo => 2

def StartTarget.ofCode? : Nat → Option StartTarget
  | 0 => some .sync | 1 => some .beacon | 2 => some .xo | _ => none

def onOff? : Nat → Option Bool
  | 0 => some false | 1 => some true | _ => none

def RunnerState.code : RunnerState → Nat
  | .empty => 0 | .entered => 1 | .withdrawn => 2

def SlotKind.code : SlotKind → Nat
  | .leaders => 0 | .featured => 1 | .flow => 2 | .clock => 3

def SlotKind.ofCode? : Nat → Option SlotKind
  | 0 => some .leaders | 1 => some .featured | 2 => some .flow | 3 => some .clock | _ => none

end Sys2Proof

namespace Sys2Proof.Machine

/-! ### Fields -/

/-- `n` bytes of a number, least significant byte first (R197, section 12). -/
def le : Nat → Nat → List Byte
  | 0, _ => []
  | n + 1, v => BitVec.ofNat 8 v :: le n (v / 256)

/-- The number that bytes stand for, least significant byte first. -/
def leNat : List Byte → Nat
  | [] => 0
  | b :: rest => b.toNat + 256 * leNat rest

/-- The field of `n` bytes at offset `at_` of a payload. -/
def fieldAt (n at_ : Nat) (payload : List Byte) : Nat := leNat ((payload.drop at_).take n)

def u8 (at_ : Nat) (payload : List Byte) : Nat := fieldAt 1 at_ payload
def u16 (at_ : Nat) (payload : List Byte) : Nat := fieldAt 2 at_ payload
def u32 (at_ : Nat) (payload : List Byte) : Nat := fieldAt 4 at_ payload

/-- `n` bytes of ones: an absent time (R199). -/
def ones (n : Nat) : List Byte := List.replicate n 0xFF#8

/-- A time field, all ones when absent (R199). -/
def leOpt (n : Nat) : Option Nat → List Byte
  | none => ones n
  | some v => le n v

/-- yes/no and on/off: 1 and 0 (R197). -/
def yesNo (b : Bool) : Nat := if b then 1 else 0

/-- A list of `count` items of `size` bytes each. -/
def items (size : Nat) : Nat → List Byte → List (List Byte)
  | 0, _ => []
  | count + 1, bytes => bytes.take size :: items size count (bytes.drop size)

/-! ### The frame on the line -/

/-- One bit of the CRC: generator x^16 + x^12 + x^5 + 1, most significant bit first (R175). -/
def crcBit (r : BitVec 16) : BitVec 16 :=
  if r.msb then (r <<< 1) ^^^ 0x1021#16 else r <<< 1

/-- One byte of the CRC. -/
def crcByte (r : BitVec 16) (b : Byte) : BitVec 16 :=
  crcBit (crcBit (crcBit (crcBit (crcBit (crcBit (crcBit (crcBit (r ^^^ (b.setWidth 16 <<< 8)))))))))

/-- The CRC of a frame's length, kind, tag and payload bytes; the register starts at all ones, the result is not inverted
(R175). -/
def crc (bytes : List Byte) : BitVec 16 := bytes.foldl crcByte 0xFFFF#16

/-- The start byte (R175). -/
def startByte : Byte := 0xC3#8

/-- The bytes that the length counts (R175): kind, tag and payload. -/
def Frame.content (f : Frame) : List Byte := f.kind :: le 2 f.tag.toNat ++ f.payload

/-- A frame's bytes on the line: start byte, length, kind, tag, payload, CRC (R175, section 12). -/
def Frame.wire (f : Frame) : List Byte :=
  let counted := le 2 f.content.length ++ f.content
  startByte :: counted ++ le 2 (crc counted).toNat

/-- What the bytes from a start byte on amount to so far (R176, R177). -/
inductive Scan
  /-- the frame is still being assembled, or the port is hunting -/
  | partialFrame
  /-- the length lies outside 3 to 1,020 -/
  | badLength
  /-- all bytes are there and the CRC differs -/
  | badCrc
  /-- the frame has arrived; `rest` is what follows its last CRC byte -/
  | arrived (f : Frame) (rest : List Byte)
  deriving DecidableEq, Repr

/-- Hunting: every byte that is not the start byte is passed over (R176). -/
def hunt (bytes : List Byte) : List Byte := bytes.dropWhile (fun b => b != startByte)

/-- The content bytes of a frame read as kind, tag and payload. -/
def frameOf (content : List Byte) : Frame :=
  { kind := content.headD 0#8, tag := BitVec.ofNat 16 (u16 1 content), payload := content.drop 3 }

/-- The state of the candidate frame that begins at the first byte of `line` (R176, R177). -/
def scan : List Byte → Scan
  | _ :: l0 :: l1 :: body =>
    let n := leNat [l0, l1]
    if n < 3 ∨ 1020 < n then .badLength
    else if body.length < n + 2 then .partialFrame
    else
      let content := body.take n
      if crc (l0 :: l1 :: content) = BitVec.ofNat 16 (u16 n body) then .arrived (frameOf content) (body.drop (n + 2))
      else .badCrc
  | _ => .partialFrame

/-! ### Codes of the blocks' own values (R197) -/

def LinkState.code : LinkState → Nat
  | .silent => 0 | .active => 1

def MatState.code : MatState → Nat
  | .disarmed => 0 | .armed => 1

def MatState.ofCode? : Nat → Option MatState
  | 0 => some .disarmed | 1 => some .armed | _ => none

def SourceState.code : SourceState → Nat
  | .starting => 0 | .qualified => 1 | .failed => 2

def EntryKind.code : EntryKind → Nat
  | .posted => 1 | .manual => 2 | .amended => 3 | .voided => 4 | .reinstated => 5

/-- The page kind code of a PATTERN page. -/
def patternPageCode : Nat := 4

def FaultKind.code : FaultKind → Nat
  | .setup => 0 | .timebase => 1 | .crossingFull => 2 | .holdFull => 3 | .feed => 4

def FaultKind.ofCode? : Nat → Option FaultKind
  | 0 => some .setup | 1 => some .timebase | 2 => some .crossingFull | 3 => some .holdFull | 4 => some .feed | _ => none

def HoldReason.code : HoldReason → Nat
  | .unknownChip => 0 | .wave _ _ => 1 | .suspect _ => 2

def HoldReason.bib? : HoldReason → Option Nat
  | .unknownChip => none | .wave b _ => some b | .suspect b => some b

def HoldReason.wave? : HoldReason → Option Nat
  | .unknownChip => none | .wave _ w => some w | .suspect _ => none

/-- The refusal reasons, in the order in which they are checked (R181). -/
inductive Reason | format | kind | role | range | state | locked | full | unknown | gone
  deriving DecidableEq, Repr

def Reason.code : Reason → Nat
  | .format => 1 | .kind => 2 | .role => 3 | .range => 4 | .state => 5 | .locked => 6 | .full => 7 | .unknown => 8
  | .gone => 9

/-- The split flags byte; bit 6 is AMENDED, on page rows only (R197). -/
def SplitFlags.byte (f : SplitFlags) (amended : Bool) : Nat :=
  yesNo f.featured + 2 * yesNo f.bothFeeds + 4 * yesNo f.approx + 8 * yesNo f.late + 16 * yesNo f.held
    + 32 * yesNo f.noStart + 64 * yesNo amended

/-- The baud value of a line rate (R188). -/
def LineRate.baud : LineRate → Nat
  | .baud115200 => 115200 | .baud460800 => 460800 | .baud921600 => 921600 | .baud2000000 => 2000000

/-- The line rate that the two straps select, high is true (R188). -/
def LineRate.ofStraps : Bool → Bool → LineRate
  | false, false => .baud115200
  | false, true => .baud460800
  | true, false => .baud921600
  | true, true => .baud2000000

/-! ### Kind bytes (R197) -/

namespace Kind

def report : Byte := 0x10#8
def matState : Byte := 0x11#8
def time : Byte := 0x12#8
def describe : Byte := 0x13#8
def page : Byte := 0x14#8
def runnerLoad : Byte := 0x20#8
def runnerRead : Byte := 0x21#8
def aliasSet : Byte := 0x22#8
def aliasClear : Byte := 0x23#8
def waveStart : Byte := 0x24#8
def waveSet : Byte := 0x25#8
def pointSet : Byte := 0x26#8
def holdsRead : Byte := 0x30#8
def holdResolve : Byte := 0x31#8
def holdTimeoutSet : Byte := 0x32#8
def splitsRead : Byte := 0x33#8
def boardSet : Byte := 0x38#8
def rotationSet : Byte := 0x39#8
def patternSet : Byte := 0x3A#8
def gunSet : Byte := 0x40#8
def timeBeacon : Byte := 0x41#8
def clockSelect : Byte := 0x42#8
def clockLock : Byte := 0x43#8
def clockFailClear : Byte := 0x44#8
def clockSetup : Byte := 0x45#8
def withdraw : Byte := 0x50#8
def reinstate : Byte := 0x51#8
def amend : Byte := 0x52#8
def crossingEnter : Byte := 0x53#8
def faultRead : Byte := 0x60#8
def faultClear : Byte := 0x61#8
def integritySet : Byte := 0x62#8
def statusRead : Byte := 0x63#8
def setupStore : Byte := 0x70#8
def restart : Byte := 0x71#8
def ack : Byte := 0x80#8
def refuse : Byte := 0x81#8
def faultNotice : Byte := 0x90#8
def holdNotice : Byte := 0x91#8
def clockNotice : Byte := 0x92#8

/-- Every kind byte that names a request (R197, R182). -/
def requests : List Byte :=
  [report, matState, time, describe, page, runnerLoad, runnerRead, aliasSet, aliasClear, waveStart, waveSet, pointSet]
    ++ [holdsRead, holdResolve, holdTimeoutSet, splitsRead, boardSet, rotationSet, patternSet]
    ++ [gunSet, timeBeacon, clockSelect, clockLock, clockFailClear, clockSetup]
    ++ [withdraw, reinstate, amend, crossingEnter, faultRead, faultClear, integritySet, statusRead, setupStore, restart]

/-- The requests of the feed role but TIME and DESCRIBE (R183). -/
def ofFeed : List Byte := [report, matState]

/-- The requests of the screen role but TIME and DESCRIBE (R183). -/
def ofScreen : List Byte := [page]

/-- The requests that every role takes (R183). -/
def ofAll : List Byte := [time, describe]

/-- Whether a role takes a request kind (R183). -/
def taken (role : Role) (kind : Byte) : Bool :=
  ofAll.contains kind ||
    match role with
    | .feed => ofFeed.contains kind
    | .screen => ofScreen.contains kind
    | .control => requests.contains kind && !ofFeed.contains kind && !ofScreen.contains kind

end Kind

/-! ### Request layouts (R200) -/

/-- An optional time: a presence byte other than 0 or 1, or an absent field that is not zero, does not fit (R182, R198). -/
def optional (presence value : Nat) : Option (Option Nat) :=
  if presence = 1 then some (some value)
  else if presence = 0 ∧ value = 0 then some none
  else none

namespace Layout

/-- An empty payload. -/
def empty (pl : List Byte) : Option Unit := if pl = [] then some () else none

/-- One field of `n` bytes and nothing else. -/
def one (n : Nat) (pl : List Byte) : Option Nat := if pl.length = n then some (leNat pl) else none

/-- A REPORT (R29, R198): whether it is clockless, the quality code, and the reads as (chip code, time). -/
structure Report where
  clockless : Bool
  quality : Nat
  reads : List (Nat × Nat)
  deriving DecidableEq, Repr

def report (pl : List Byte) : Option Report :=
  let flags := u8 1 pl
  let reads := (items 8 (u8 0 pl) (pl.drop 2)).map (fun r => (u32 0 r, u32 4 r))
  let clockless := flags % 2 == 1
  if pl.length < 2 ∨ pl.length ≠ 2 + 8 * u8 0 pl then none
  else if 16 ≤ flags then none
  else if clockless && reads.any (fun r => r.2 != 0) then none
  else some { clockless := clockless, quality := flags / 2, reads := reads }

/-- A load record (R5, R200): `featured` is the code as sent. -/
structure LoadRecord where
  bib : Nat
  wave : Nat
  division : Nat
  featured : Nat
  nameTag : Nat
  start : Option Nat
  deriving DecidableEq, Repr

def loadRecord (r : List Byte) : Option LoadRecord :=
  (optional (u8 5 r) (u32 8 r)).map fun start =>
    { bib := u16 0 r, wave := u8 2 r, division := u8 3 r, featured := u8 4 r, nameTag := u16 6 r, start := start }

/-- All of a list of layouts, or none. -/
def allSome {α : Type} : List (Option α) → Option (List α)
  | [] => some []
  | x :: xs => match x, allSome xs with
    | some a, some as => some (a :: as)
    | _, _ => none

def runnerLoad (pl : List Byte) : Option (List LoadRecord) :=
  if pl.length < 2 ∨ pl.length ≠ 2 + 12 * u8 0 pl ∨ u8 1 pl ≠ 0 then none
  else allSome ((items 12 (u8 0 pl) (pl.drop 2)).map loadRecord)

/-- ALIAS SET: chip code and bib. -/
def aliasSet (pl : List Byte) : Option (Nat × Nat) := if pl.length = 6 then some (u32 0 pl, u16 4 pl) else none

/-- WAVE START: wave and optional gun time. -/
def waveStart (pl : List Byte) : Option (Nat × Option Nat) :=
  if pl.length = 6 then (optional (u8 1 pl) (u32 2 pl)).map (fun gun => (u8 0 pl, gun)) else none

/-- WAVE SET: wave and gun time. -/
def waveSet (pl : List Byte) : Option (Nat × Nat) :=
  if pl.length = 6 ∧ u8 1 pl = 0 then some (u8 0 pl, u32 2 pl) else none

def pointSet (pl : List Byte) : Option PointSettings :=
  if pl.length = 14 ∧ u8 1 pl = 0 then
    some { passes := u8 0 pl, distance1 := u16 2 pl, distance2 := u16 4 pl, settleWindow := u32 6 pl,
           rearmGap := u16 10 pl, lateLimit := u16 12 pl }
  else none

/-- HOLD RESOLVE: chip code, resolution code, bib. The bib of a REJECT must be zero (R75). -/
structure Resolve where
  chip : Nat
  resolution : Nat
  bib : Nat
  deriving DecidableEq, Repr

def holdResolve (pl : List Byte) : Option Resolve :=
  if pl.length = 8 ∧ u8 5 pl = 0 ∧ (u8 4 pl = 1 → u16 6 pl = 0) then
    some { chip := u32 0 pl, resolution := u8 4 pl, bib := u16 6 pl }
  else none

def boardSet (pl : List Byte) : Option BoardSettings :=
  if pl.length = 8 ∧ u8 5 pl = 0 then
    some { rows := u8 0 pl, dwellLead := u8 1 pl, dwellFeat := u8 2 pl, dwellFlow := u8 3 pl, leadDepth := u8 4 pl,
           quietInterval := u16 6 pl }
  else none

/-- ROTATION SET: the slots as (page kind code, hold count). -/
def rotationSet (pl : List Byte) : Option (List (Nat × Nat)) :=
  if pl.length < 2 ∨ pl.length ≠ 2 + 2 * u8 0 pl ∨ u8 1 pl ≠ 0 then none
  else some ((items 2 (u8 0 pl) (pl.drop 2)).map (fun r => (u8 0 r, u8 1 r)))

def gunSet (pl : List Byte) : Option (Option Nat) :=
  if pl.length = 5 then optional (u8 0 pl) (u32 1 pl) else none

/-- CLOCK SETUP: fail-safe enable and start target codes. -/
def clockSetup (pl : List Byte) : Option (Nat × Nat) := if pl.length = 2 then some (u8 0 pl, u8 1 pl) else none

/-- AMEND: bib, pass, time. -/
def amend (pl : List Byte) : Option (Nat × Nat × Nat) :=
  if pl.length = 8 ∧ u8 3 pl = 0 then some (u16 0 pl, u8 2 pl, u32 4 pl) else none

/-- CROSSING ENTER: bib, time. -/
def crossingEnter (pl : List Byte) : Option (Nat × Nat) :=
  if pl.length = 8 ∧ u16 2 pl = 0 then some (u16 0 pl, u32 4 pl) else none

/-- FAULT CLEAR: class, kind, bib; the field that the named class does not use must be zero (R165). -/
structure Clear where
  cls : Nat
  kind : Nat
  bib : Nat
  deriving DecidableEq, Repr

def faultClear (pl : List Byte) : Option Clear :=
  if pl.length = 4 ∧ (u8 0 pl = 0 → u16 2 pl = 0) ∧ (u8 0 pl = 1 → u8 1 pl = 0) then
    some { cls := u8 0 pl, kind := u8 1 pl, bib := u16 2 pl }
  else none

end Layout

end Sys2Proof.Machine
end

