-- ==== Sys2Proof/Machine/Flags.lean ====
section
/-! DEFINITION. The arithmetic of splits and the flags of a posting (05 R86-R92), the ranking of qualities (03 section 3.1), and the
saturating counts. -/

namespace Sys2Proof

/-- The worse of two qualities: later in EXACT, TRACKED, HOLDOVER, LOCAL (03 section 3.1). -/
def Quality.worse (p q : Quality) : Quality := if p.code < q.code then q else p

/-- The quality that a current source gives (07 section 7.3, R135). -/
def Source.quality : Source → Quality
  | .sync => .exact
  | .beacon => .tracked
  | .xo => .holdover
  | .rc => .localRc

/-- The rank of a source, 1 the best (07 section 7.3). -/
def Source.rank : Source → Nat
  | .sync => 1
  | .beacon => 2
  | .xo => 3
  | .rc => 4

/-- The distance of a pass (R88). -/
def PointSettings.distance (point : PointSettings) (pass : Nat) : Nat :=
  if pass ≤ 1 then point.distance1 else point.distance2

/-- APPROX: the quality is HOLDOVER or LOCAL (R89). -/
def Quality.approx : Quality → Bool
  | .exact => false
  | .tracked => false
  | .holdover => true
  | .localRc => true

end Sys2Proof

namespace Sys2Proof.Machine

/-- A saturating count raised by `n` (00_scope.md, Numbers). -/
def satAdd (bound n count : Nat) : Nat := min bound (count + n)

/-- The gun split: 0 when the crossing is earlier than the gun (R86). -/
def gunSplit (time gun : Nat) : Nat := time - gun

/-- The chip split: from the start time when there is one, 0 when that is later, else the gun split (R87). -/
def chipSplit (time gun : Nat) : Option Nat → Nat
  | some start => time - start
  | none => gunSplit time gun

/-- The pace in milliseconds per kilometre, rounded down, at most 4,294,967,295 (R88). -/
def pace (chip distance : Nat) : Nat := min 4294967295 (chip * 1000 / distance)

/-- The figures of a pass (R86-R88). -/
def figures (point : PointSettings) (pass time gun : Nat) (start : Option Nat) : Figures :=
  { pass := pass, time := time, gunSplit := gunSplit time gun, chipSplit := chipSplit time gun start,
    pace := pace (chipSplit time gun start) (point.distance pass) }

/-- LATE: race time at posting exceeds the crossing time by more than the late limit in seconds (R89). -/
def lateFlag (point : PointSettings) (time now : Nat) : Bool := decide (time + point.lateLimit * 1000 < now)

/-- The flags of a posting (R89). -/
def postingFlags (point : PointSettings) (rec : RecordFields) (time now : Nat) (quality : Quality) (bothFeeds held : Bool) :
    SplitFlags :=
  { featured := rec.featured, bothFeeds := bothFeeds, approx := quality.approx, late := lateFlag point time now, held := held,
    noStart := rec.start.isNone }

/-- Every flag clear (R93, VOIDED and REINSTATED). -/
def SplitFlags.clear : SplitFlags :=
  { featured := false, bothFeeds := false, approx := false, late := false, held := false, noStart := false }

/-- The flags of an AMENDED entry, from the reference entry's flags when one is retained (R92). -/
def amendedFlags (rec : RecordFields) (quality : Quality) (reference : Option SplitFlags) : SplitFlags :=
  { featured := rec.featured, bothFeeds := (reference.map SplitFlags.bothFeeds).getD false, approx := quality.approx,
    late := false, held := (reference.map SplitFlags.held).getD false, noStart := rec.start.isNone }

end Sys2Proof.Machine
end

