-- ==== Sys2Proof/Machine/Ops.lean ====
section
/-! DEFINITION. The shared operations: tables, ports and requests (10), the fault unit (09), the runner directory (01), feed
counts and waiting (02), the open crossing table (03), the hold unit (04), the split log (05), the board's lanes (06) and the
posting of a crossing (R57-R59). -/

namespace Sys2Proof.Machine

/-- What a command answers. -/
abbrev Result := Host.Outcome State Fault Refusal

/-! ### Tables: lists of (key, value), keys rising -/

namespace Table

/-- The canonical form: keys strictly rising. -/
abbrev wf {V : Type} (t : List (Nat × V)) : Prop := (t.map Prod.fst).Pairwise (· < ·)

def get? {V : Type} : List (Nat × V) → Nat → Option V
  | [], _ => none
  | (j, v) :: rest, k => if j = k then some v else get? rest k

def put {V : Type} : List (Nat × V) → Nat → V → List (Nat × V)
  | [], k, v => [(k, v)]
  | (j, w) :: rest, k, v =>
    if k < j then (k, v) :: (j, w) :: rest
    else if j = k then (k, v) :: rest
    else (j, w) :: put rest k v

def erase {V : Type} (t : List (Nat × V)) (k : Nat) : List (Nat × V) := t.filter (fun e => e.1 != k)

end Table

/-! ### Time -/

/-- Course time now (R127). -/
def State.now (s : State) : Nat := s.clock.courseTime

/-- Race time now, absent while the race clock is UNSET (R128). -/
def State.raceNow? (s : State) : Option Nat := s.clock.epoch.map (fun e => s.now - e)

/-- The quality of the current source (R135). -/
def State.quality (s : State) : Quality := s.clock.current.quality

/-- A 4-byte race time field: all ones while UNSET (R199); from 2^32 ms on the manual states no encoding (log entry 10). -/
def raceTimeField : Option Nat → List Byte
  | none => ones 4
  | some t => if t < 4294967296 then le 4 t else le 4 (Config.wideRaceTime t)

/-- A step that is taken only when it is due: an event whose condition does not hold does not happen (log entry 2). -/
def ifDue (due : Bool) (s t : State) : Result := if due then .next t else .next s

/-! ### Ports, transmit queues and requests (10) -/

def Ports.get (ports : Ports) : Port → PortState
  | .a => ports.a
  | .b => ports.b
  | .c => ports.c
  | .d => ports.d

def Ports.set (ports : Ports) (p : Port) (ps : PortState) : Ports :=
  match p with
  | .a => { ports with a := ps }
  | .b => { ports with b := ps }
  | .c => { ports with c := ps }
  | .d => { ports with d := ps }

def State.port (s : State) (p : Port) : PortState := s.ports.get p

def State.setPort (s : State) (p : Port) (ps : PortState) : State := { s with ports := s.ports.set p ps }

/-- Whether a queued frame is a notice (R185). -/
def TxFrame.isNotice (t : TxFrame) : Bool :=
  t.frame.kind == Kind.faultNotice || t.frame.kind == Kind.holdNotice || t.frame.kind == Kind.clockNotice

def PortState.answers (ps : PortState) : Nat := (ps.tx.filter (fun t => !t.isNotice)).length

def PortState.notices (ps : PortState) : Nat := (ps.tx.filter TxFrame.isNotice).length

/-- A frame placed at the end of a transmit queue (R184). -/
def PortState.place (ps : PortState) (frame : Frame) (restart : Bool) : PortState :=
  { ps with tx := ps.tx ++ [{ frame := frame, restart := restart }] }

/-- A notice on port C: tag 0, not placed while 15 notices wait (R184, R185). -/
def State.notice (s : State) (kind : Byte) (payload : List Byte) : State :=
  if (s.port .c).notices < noticeCap then
    s.setPort .c ((s.port .c).place { kind := kind, tag := 0#16, payload := payload } false)
  else s

/-- An answer on the port of its request (R180). -/
def State.answer (s : State) (p : Port) (frame : Frame) (restart : Bool) : State :=
  s.setPort p ((s.port p).place frame restart)

/-- ACK: the request's tag, its kind byte, the results (R180, R199). -/
def ackFrame (request : Frame) (results : List Byte) : Frame :=
  { kind := Kind.ack, tag := request.tag, payload := request.kind :: results }

/-- REFUSE: the request's tag and kind byte, the reason, a zero byte, and for GONE the oldest retained sequence (R199). -/
def refuseFrame (request : Frame) (reason : Reason) (oldest : Nat) : Frame :=
  { kind := Kind.refuse, tag := request.tag
    payload := [request.kind] ++ le 1 reason.code ++ le 1 0 ++ le 4 (if reason = .gone then oldest else 0) }

/-- A port with no request in work and fewer than 4 answers waiting can take its next request (R179). -/
def PortState.ready (ps : PortState) : Bool := ps.inWork.isNone && decide (ps.answers < answerCap)

/-- The port takes the oldest frame of its buffer as its request, when that frame is of the row's kind (R178, R179). -/
def takeFrame (p : Port) (row : Frame → Bool) (s : State) : Option (Frame × State) :=
  if s.held || !(s.port p).ready then none
  else match (s.port p).buffer with
    | f :: rest => if row f then some (f, s.setPort p { s.port p with buffer := rest }) else none
    | [] => none

/-- The oldest retained sequence, 0 while the log is empty (R94). -/
def SplitLog.oldest (l : SplitLog) : Nat :=
  match l.entries with
  | e :: _ => e.seq
  | [] => 0

/-- What a request comes to: a refusal with one reason, or the state it leaves and the results of its ACK. -/
abbrev Reply := Except Reason (State × List Byte)

/-- The checks in the order FORMAT, ROLE, then those of the block (R181-R183). -/
def checked {α : Type} (p : Port) (f : Frame) (layout : List Byte → Option α) (act : α → State → Reply) (s : State) : Reply :=
  match layout f.payload with
  | none => .error .format
  | some a => if Kind.taken p.role f.kind then act a s else .error .role

/-- The answer of a request taken in state `s`: a refused request changes nothing else (R181). -/
def answered (p : Port) (f : Frame) (s : State) : Reply → State
  | .error r => s.answer p (refuseFrame f r s.log.oldest) false
  | .ok (t, results) => t.answer p (ackFrame f results) false

/-- A request that is answered in the event that takes it (R179, R180). -/
def serve {α : Type} (p : Port) (row : Frame → Bool) (layout : List Byte → Option α) (act : α → State → Reply) (s : State) :
    Result :=
  match takeFrame p row s with
  | none => .next s
  | some (f, s1) => .next (answered p f s1 (checked p f layout act s1))

/-- The row of a request kind. -/
def ofKind (k : Byte) (f : Frame) : Bool := f.kind == k

/-! ### The fault unit (09) -/

def FaultSet.get (set : FaultSet) : FaultKind → FaultItem
  | .setup => set.setup
  | .timebase => set.timebase
  | .crossingFull => set.crossingFull
  | .holdFull => set.holdFull
  | .feed => set.feed

def FaultSet.put (set : FaultSet) (k : FaultKind) (item : FaultItem) : FaultSet :=
  match k with
  | .setup => { set with setup := item }
  | .timebase => { set with timebase := item }
  | .crossingFull => { set with crossingFull := item }
  | .holdFull => { set with holdFull := item }
  | .feed => { set with feed := item }

/-- The kinds by priority, highest first (R162). -/
def faultKinds : List FaultKind := [.setup, .timebase, .crossingFull, .holdFull, .feed]

/-- The pending kind of highest priority (R165). -/
def FaultSet.firstPending (set : FaultSet) : Option FaultKind := faultKinds.find? (fun k => (set.get k).pending)

/-- The pending set: bit n for fault kind n (R197). -/
def FaultSet.pendingByte (set : FaultSet) : Nat :=
  yesNo set.setup.pending + 2 * yesNo set.timebase.pending + 4 * yesNo set.crossingFull.pending
    + 8 * yesNo set.holdFull.pending + 16 * yesNo set.feed.pending

/-- The payload of a FAULT NOTICE of class ordinary (R164, R201). -/
def ordinaryNotice (set : FaultSet) (r : FaultRecord) : List Byte :=
  le 1 0 ++ le 1 r.kind.code ++ le 6 r.time ++ le 4 r.detail ++ le 1 (set.get r.kind).count ++ le 1 set.pendingByte

/-- The payload of a FAULT NOTICE of class integrity (R164, R201). -/
def integrityNotice (r : IntegrityRecord) : List Byte :=
  le 1 1 ++ le 1 0xFF ++ le 6 r.time ++ le 4 r.bib ++ le 1 r.further ++ le 1 0

/-- A kind captured into the empty fault record, and announced (R163, R165). -/
def capture (set : FaultSet) (r : FaultRecord) (s : State) : State :=
  { s with faults := { s.faults with record := some r, set := set } }.notice Kind.faultNotice (ordinaryNotice set r)

/-- An occurrence of a fault at the present course time (R161-R163). -/
def raiseFault (k : FaultKind) (detail : Nat) (s : State) : State :=
  let item := s.faults.set.get k
  let counted := { item with count := satAdd 255 1 item.count }
  let opened := { counted with first := some (s.now, detail) }
  match s.faults.record with
  | none => capture (s.faults.set.put k opened) { kind := k, time := s.now, detail := detail } s
  | some r =>
    let item' := if r.kind = k ∨ item.pending = true then counted else { opened with pending := true }
    { s with faults := { s.faults with set := s.faults.set.put k item' } }

/-- An integrity failure of a record read now (R4, R167). -/
def integrityFailure (bib : Nat) (s : State) : State :=
  match s.faults.integrity with
  | none =>
    let r : IntegrityRecord := { bib := bib, time := s.now, further := 0 }
    { s with faults := { s.faults with integrity := some r } }.notice Kind.faultNotice (integrityNotice r)
  | some r => { s with faults := { s.faults with integrity := some { r with further := satAdd 255 1 r.further } } }

/-! ### The runner directory (01) -/

def Directory.record (d : Directory) (bib : Nat) : RunnerRecord := (Table.get? d.records bib).getD RunnerRecord.initial

/-- A record put into the store; the initial record is not listed. -/
def Directory.setRecord (d : Directory) (bib : Nat) (r : RunnerRecord) : Directory :=
  { d with records := if r = RunnerRecord.initial then Table.erase d.records bib else Table.put d.records bib r }

/-- A write of a record: the check code is recomputed over all the fields (R2). -/
def Directory.write (d : Directory) (bib : Nat) (fields : RecordFields) : Directory :=
  d.setRecord bib { fields := fields, codedFor := fields }

/-- The stored check code equals the code of the stored fields (R3; log entry 5). -/
def RunnerRecord.passes (r : RunnerRecord) : Bool := decide (r.codedFor = r.fields)

/-- The gun time of a started wave; absent while it is WAITING (R17). -/
def Directory.waveGun (d : Directory) (wave : Nat) : Option Nat := Table.get? d.waves wave

def Directory.startWave (d : Directory) (wave gun : Nat) : Directory := { d with waves := Table.put d.waves wave gun }

/-- The place counter of a pass and division (R20). -/
def placeKey (pass division : Nat) : Nat := 8 * pass + division

def Directory.place (d : Directory) (pass division : Nat) : Nat := (Table.get? d.places (placeKey pass division)).getD 0

def Directory.setPlace (d : Directory) (pass division value : Nat) : Directory :=
  { d with places := Table.put d.places (placeKey pass division) value }

/-- The fields of a record as read for a resolution, a posting or RUNNER READ, with the integrity check when the enable is
on: a failure marks the record suspect and is handed to the fault unit (R3, R4). -/
def readChecked (bib : Nat) (s : State) : RecordFields × State :=
  let r := s.dir.record bib
  if s.dir.integrityOn && !r.passes then
    let fields := { r.fields with suspect := true }
    (fields, integrityFailure bib { s with dir := s.dir.write bib fields })
  else (r.fields, s)

/-- The bib of an alias entry, 0 for a bar (R13). -/
def Directory.aliasOf (d : Directory) (chip : Nat) : Option Nat := (d.aliasMap.find? (fun e => e.1 == chip)).map Prod.snd

def Directory.aliasFree (d : Directory) : Nat := aliasCap - d.aliasMap.length

/-- How an alias map write went: the codes of R197. -/
inductive AliasWrite | taken | replaced | notWritten
  deriving DecidableEq, Repr

def AliasWrite.code : AliasWrite → Nat
  | .taken => 0 | .replaced => 1 | .notWritten => 2

/-- An alias map write in the order of ALIAS SET: the entry that holds the code is replaced, else a free entry is taken, else
the map is unchanged (R14, R16). -/
def Directory.writeAlias (d : Directory) (chip bib : Nat) : AliasWrite × Directory :=
  if (d.aliasOf chip).isSome then
    (.replaced, { d with aliasMap := d.aliasMap.map (fun e => if e.1 = chip then (chip, bib) else e) })
  else if d.aliasMap.length < aliasCap then (.taken, { d with aliasMap := d.aliasMap ++ [(chip, bib)] })
  else (.notWritten, d)

/-! ### Feeds (02) -/

def Feeds.get (feeds : Feeds) : Feed → FeedState
  | .a => feeds.a
  | .b => feeds.b

def Feeds.set (feeds : Feeds) (f : Feed) (fs : FeedState) : Feeds :=
  match f with
  | .a => { feeds with a := fs }
  | .b => { feeds with b := fs }

def State.feed (s : State) (f : Feed) : FeedState := s.feeds.get f

def State.setFeed (s : State) (f : Feed) (fs : FeedState) : State := { s with feeds := s.feeds.set f fs }

/-- The twelve outcomes that are counted (02 section 2.7). -/
inductive ReadOutcome
  | queued | opened | merged | held | stray | excess | future | beforeGun | withdrawn | barred | timedOut | lost
  deriving DecidableEq, Repr

def OutcomeCounts.get (c : OutcomeCounts) : ReadOutcome → Nat
  | .queued => c.queued
  | .opened => c.opened
  | .merged => c.merged
  | .held => c.held
  | .stray => c.stray
  | .excess => c.excess
  | .future => c.future
  | .beforeGun => c.beforeGun
  | .withdrawn => c.withdrawn
  | .barred => c.barred
  | .timedOut => c.timedOut
  | .lost => c.lost

/-- A count raised by `n`, stopping at 4,294,967,295. -/
def OutcomeCounts.add (c : OutcomeCounts) (n : Nat) : ReadOutcome → OutcomeCounts
  | .queued => { c with queued := satAdd maxCount n c.queued }
  | .opened => { c with opened := satAdd maxCount n c.opened }
  | .merged => { c with merged := satAdd maxCount n c.merged }
  | .held => { c with held := satAdd maxCount n c.held }
  | .stray => { c with stray := satAdd maxCount n c.stray }
  | .excess => { c with excess := satAdd maxCount n c.excess }
  | .future => { c with future := satAdd maxCount n c.future }
  | .beforeGun => { c with beforeGun := satAdd maxCount n c.beforeGun }
  | .withdrawn => { c with withdrawn := satAdd maxCount n c.withdrawn }
  | .barred => { c with barred := satAdd maxCount n c.barred }
  | .timedOut => { c with timedOut := satAdd maxCount n c.timedOut }
  | .lost => { c with lost := satAdd maxCount n c.lost }

/-- One outcome counted against a feed (R33). -/
def State.count (s : State) (f : Feed) (o : ReadOutcome) : State :=
  s.setFeed f { s.feed f with counts := (s.feed f).counts.add 1 o }

/-- A feed is waiting while its link is ACTIVE and its mat ARMED (R26). -/
def FeedState.waiting (fs : FeedState) : Bool := fs.link == .active && fs.mat == .armed

/-! ### The open crossing table (03) -/

def Engine.find? (e : Engine) (bib : Nat) : Option OpenCrossing := e.crossings.find? (fun c => c.bib == bib)

def Engine.replace (e : Engine) (c : OpenCrossing) : Engine :=
  { e with crossings := e.crossings.map (fun d => if d.bib = c.bib then c else d) }

def Engine.free (e : Engine) (bib : Nat) : Engine := { e with crossings := e.crossings.filter (fun c => c.bib != bib) }

/-- The bound, the later of now and opened at + lone window, when it is earlier than the deadline (R53, R54). -/
def OpenCrossing.bringForward (now : Nat) (c : OpenCrossing) : OpenCrossing :=
  { c with deadline := min c.deadline (max now (c.openedAt + loneWindow)) }

/-- *Waiting ended* for a feed, applied to every open crossing whose partner is that feed (R53). -/
def Engine.waitingEnded (e : Engine) (f : Feed) (now : Nat) : Engine :=
  { e with crossings := e.crossings.map (fun c => if c.opener = f.other then c.bringForward now else c) }

/-- A feed's new state with its waiting status computed anew: a change from waiting to not waiting is handed to the engine;
*waiting began* leaves every deadline as it was (R26, R53, R55). -/
def State.updateFeed (s : State) (f : Feed) (fs : FeedState) : State :=
  let t := s.setFeed f fs
  if (s.feed f).waiting && !fs.waiting then { t with engine := t.engine.waitingEnded f s.now } else t

/-! ### The hold unit (04) -/

/-- The hold over flag is cleared at the moment the list becomes empty (R72). -/
def HoldUnit.settle (h : HoldUnit) : HoldUnit := if h.list = [] then { h with holdOver := false } else h

/-- The entry of a chip code leaves the list (R68, R72). -/
def HoldUnit.remove (h : HoldUnit) (chip : Nat) : HoldUnit :=
  HoldUnit.settle { h with list := h.list.filter (fun e => e.chip != chip) }

def HoldUnit.find? (h : HoldUnit) (chip : Nat) : Option HoldEntry := h.list.find? (fun e => e.chip == chip)

/-- The entries that match are marked releasing (R78). -/
def HoldUnit.mark (h : HoldUnit) (which : HoldEntry → Bool) : HoldUnit :=
  { h with list := h.list.map (fun e => if which e then { e with releasing := true } else e) }

/-- A hold discarded because the list is full (R71). -/
def discardHold (f : Feed) (chip : Nat) (s : State) : State :=
  let t := s.count f .lost
  raiseFault .holdFull chip { t with hold := { t.hold with holdOver := true } }

/-- A read as the arbiter takes it (R42): a released read carries the held mark (R80). -/
structure JudgedRead where
  chip : Nat
  feed : Feed
  time : Nat
  quality : Quality
  held : Bool
  deriving DecidableEq, Repr

/-- A hold merged into the entry of its chip code (R70). -/
def HoldEntry.merge (e : HoldEntry) (r : JudgedRead) (reason : HoldReason) : HoldEntry :=
  { e with time := min e.time r.time, quality := e.quality.worse r.quality, count := satAdd 255 1 e.count, reason := reason }

/-- The entry a new hold makes (R69). -/
def newHold (r : JudgedRead) (reason : HoldReason) (now : Nat) : HoldEntry :=
  { chip := r.chip, reason := reason, feed := r.feed, time := r.time, quality := r.quality, count := 1, enteredAt := now,
    releasing := false }

/-- The payload of a HOLD NOTICE (R73, R201). -/
def holdNoticePayload (e : HoldEntry) : List Byte :=
  le 4 e.chip ++ le 1 e.reason.code ++ le 1 0 ++ le 2 (e.reason.bib?.getD 0) ++ le 6 e.enteredAt

/-- The hold unit takes a hold: merged, a new entry, or discarded (R69-R71), and the feed's count (R34). -/
def holdRead (r : JudgedRead) (reason : HoldReason) (s : State) : State :=
  if (s.hold.find? r.chip).isSome then
    let t := s.count r.feed .held
    { t with hold := { t.hold with
        list := t.hold.list.map (fun e => if e.chip = r.chip then e.merge r reason else e) } }
  else if s.hold.list.length < holdCap then
    let t := s.count r.feed .held
    let e := newHold r reason s.now
    let u := { t with hold := { t.hold with list := t.hold.list ++ [e] } }
    if s.hold.list = [] then u.notice Kind.holdNotice (holdNoticePayload e) else u
  else discardHold r.feed r.chip s

/-! ### The split log (05) -/

/-- An entry appended with the next sequence; a full log first loses its oldest (R94, R95). -/
def SplitLog.append (l : SplitLog) (kind : EntryKind) (bib : Nat) (figures : Option Figures) (place : Option Nat)
    (flags : SplitFlags) : SplitLog :=
  let e : LogEntry :=
    { seq := l.newest + 1, kind := kind, bib := bib, figures := figures, place := place, flags := flags }
  { entries := (if logCap ≤ l.entries.length then l.entries.drop (l.entries.length + 1 - logCap) else l.entries) ++ [e]
    newest := l.newest + 1 }

/-- While the newest sequence is 4,294,847,295 or more corrections are refused FULL (R97). -/
def SplitLog.closed (l : SplitLog) : Bool := decide (correctionLimit ≤ l.newest)

/-! ### The board's lanes (06) -/

/-- A posting placed at the newest end of a lane, whose oldest posting is removed first when it holds its capacity (R106). -/
def laneAdd (cap : Nat) (lane : List BoardPosting) (post : BoardPosting) : List BoardPosting :=
  (if cap ≤ lane.length then lane.drop 1 else lane) ++ [post]

/-- An offer: the lane by place, then by FEATURED; FLOW overflow counts the banner; the board is LIVE from now (R105-R107,
R118). -/
def Board.offer (b : Board) (now : Nat) (post : BoardPosting) : Board :=
  let live := { b with lastOffer := some now }
  if post.place ≤ b.settings.leadDepth then { live with lead := laneAdd leadCap b.lead post }
  else if post.flags.featured then { live with feat := laneAdd featCap b.feat post }
  else
    { live with
      flow := laneAdd flowCap b.flow post
      banner := if flowCap ≤ b.flow.length then satAdd 65535 1 b.banner else b.banner }

/-! ### Posting a crossing (R57-R59, R91, R158) -/

/-- What a posting came to. -/
structure Posted where
  seq : Nat
  place : Nat
  figures : Figures
  flags : SplitFlags
  deriving DecidableEq, Repr

/-- The posting record handed to the board (R90, R103). -/
def Posted.board (p : Posted) (bib : Nat) (rec : RecordFields) : BoardPosting :=
  { seq := p.seq, bib := bib, pass := p.figures.pass, nameTag := rec.nameTag, division := rec.division,
    chipSeconds := p.figures.chipSplit / 1000, pace := p.figures.pace, place := p.place, flags := p.flags, amended := false,
    shows := 0 }

/-- The inputs that a settled crossing and a CROSSING ENTER hand to a posting (R57, R91). -/
structure PostInput where
  kind : EntryKind
  bib : Nat
  pass : Nat
  time : Nat
  quality : Quality
  bothFeeds : Bool
  held : Bool
  deriving DecidableEq, Repr

/-- A posting at race time `raceNow`: the record is read with its check, the split and flags are worked out, the place is
taken, the history written, the entry appended and the posting offered unless it is LATE (R57, R58 steps 1 to 5, R59).
Crossings made stays within its range of 0 to 2 (R2, R10; log entry 15). DESIGN CHOICE (log entry 30): a pass that an upset
of crossings made lets be posted again is entered, counted and offered like any other, beside its earlier posting. -/
def post (i : PostInput) (raceNow : Nat) (s : State) : Posted × State :=
  let (rec, s1) := readChecked i.bib s
  let gun := (s1.dir.waveGun rec.wave).getD 0
  let place := s1.dir.place i.pass rec.division + 1
  let posted : Posted :=
    { seq := s1.log.newest + 1
      place := place
      figures := figures s1.engine.point i.pass i.time gun rec.start
      flags := postingFlags s1.engine.point rec i.time raceNow i.quality i.bothFeeds i.held }
  let dir := (s1.dir.setPlace i.pass rec.division place).write i.bib
    { rec with made := min 2 (rec.made + 1), last := some i.time }
  let log := s1.log.append i.kind i.bib (some posted.figures) (some place) posted.flags
  let board := if posted.flags.late then s1.board else s1.board.offer s1.now (posted.board i.bib rec)
  (posted, { s1 with dir := dir, log := log, board := board })

end Sys2Proof.Machine
end

