-- ==== Sys2Proof/Machine/Clock.lean ====
section
/-! DEFINITION. The race clock (07): GUN SET, the marks of SYNC and BEACON, the XO, switches, the lock, fail-safe, slewing and the
passing of a millisecond. -/

namespace Sys2Proof.Machine

/-! ### The gun (R129) -/

/-- GUN SET (R129). -/
def gunSet (offset : Option Nat) (s : State) : Reply :=
  let off := offset.getD 0
  if 600000 < off ∨ s.now < off then .error .range
  else if s.clock.epoch.isSome then .error .state
  else .ok ({ s with clock := { s.clock with epoch := some (s.now - off) } }, le 6 (s.now - off) ++ le 4 off)

def execGunSet (p : Port) (s : State) : Result := serve p (ofKind Kind.gunSet) Layout.gunSet gunSet s

/-! ### Sources (R130) -/

def Timebase.ref (c : Timebase) : Reference → RefState
  | .sync => c.sync
  | .beacon => c.beacon

def Timebase.setRef (c : Timebase) (r : Reference) (x : RefState) : Timebase :=
  match r with
  | .sync => { c with sync := x }
  | .beacon => { c with beacon := x }

/-- The state of a source; RC counts as QUALIFIED at every moment (R130). -/
def Timebase.sourceState (c : Timebase) : Source → SourceState
  | .sync => c.sync.state
  | .beacon => c.beacon.state
  | .xo => c.xo.state
  | .rc => .qualified

/-! ### Notices, failures and the fallback (R137, R141, R142) -/

/-- The payload of a CLOCK NOTICE (R137, R201). -/
def clockNoticePayload (cls : Nat) (before : Source) (c : Timebase) (cancelled : Option Source) : List Byte :=
  le 1 cls ++ le 6 c.courseTime ++ le 1 before.code ++ le 1 c.current.code ++ le 1 c.current.quality.code
    ++ le 1 (requestedCode c.requested) ++ le 1 (yesNo c.clockFail) ++ le 1 (requestedCode cancelled)

/-- The source a fallback goes to: the XO when it is QUALIFIED and ranks below the failed source, else the RC (R141). -/
def fallbackTarget (c : Timebase) (failed : Source) : Source :=
  if c.xo.state = .qualified ∧ failed.rank < Source.xo.rank then .xo else .rc

/-- The timebase after a fallback (R141): a request for the source made current is satisfied; a fallback that R144 owes is
made. -/
def Timebase.fallBack (c : Timebase) (failed : Source) : Timebase :=
  let target := fallbackTarget c failed
  { c with current := target, lead := 0, clockFail := true, fallbackDue := false
           requested := if c.requested = some target then none else c.requested }

/-- The fallback with its CLOCK NOTICE of class *fail-safe switch* (R141). -/
def fallback (failed : Source) (s : State) : State :=
  let c := s.clock.fallBack failed
  { s with clock := c }.notice Kind.clockNotice (clockNoticePayload 1 failed c none)

/-- The failure of a source: of the current one TIMEBASE is raised, and under fail-safe the clock falls back; of any other
nothing further (R130, R141, R142). The FAULT NOTICE goes before the CLOCK NOTICE (R184). With fail-safe off a lead still
outstanding stays, and is slewed out: the model's reading of R142 (log entry 28). -/
def sourceFailed (x : Source) (s : State) : State :=
  if s.clock.current = x then
    let t := raiseFault .timebase x.code s
    if s.clock.failSafe then fallback x t else t
  else s

/-! ### Marks and periods (R131-R133, R136) -/

/-- The good range of a period (R131). -/
def goodPeriod (r : Reference) (period : Nat) : Bool :=
  match r with
  | .sync => decide (995 ≤ period) && decide (period ≤ 1005)
  | .beacon => decide (950 ≤ period) && decide (period ≤ 1050)

/-- A good, bad or missing period moves the source's state (R132). -/
def RefState.judge (x : RefState) (good : Bool) : RefState :=
  match x.state, good with
  | .starting, true =>
    if 16 ≤ x.count + 1 then { x with state := .qualified, count := 0, misses := 0 } else { x with count := x.count + 1 }
  | .starting, false => { x with count := 0 }
  | .qualified, true => { x with misses := 0 }
  | .qualified, false =>
    if 3 ≤ x.misses + 1 then { x with state := .failed, misses := 0 } else { x with misses := x.misses + 1 }
  | .failed, true => { x with state := .starting, count := 1 }
  | .failed, false => x

/-- The period a mark closes, good or bad, when the reference is present (R131). -/
def RefState.period (x : RefState) (r : Reference) (now : Nat) : Option Bool :=
  x.reference.map (fun t => goodPeriod r (now - t))

/-- A source's state after a period, with what its failure does (R132, R141, R142). -/
def judgeRef (r : Reference) (good : Bool) (s : State) : State :=
  let x := s.clock.ref r
  let y := x.judge good
  let t := { s with clock := s.clock.setRef r y }
  if x.state = .qualified ∧ y.state = .failed then sourceFailed r.source t else t

/-- The distance from the nearest whole second of course time to a mark, -499 to +500 (R136). -/
def leadOf (t : Nat) : Int := if t % 1000 ≤ 500 then ((t % 1000 : Nat) : Int) else ((t % 1000 : Nat) : Int) - 1000

/-- A good mark of the current source, when that is QUALIFIED, sets the lead (R136; log entry 13). -/
def setLead (r : Reference) (s : State) : State :=
  if s.clock.current = r.source ∧ (s.clock.ref r).state = .qualified then
    { s with clock := { s.clock with lead := leadOf s.now } }
  else s

/-- A mark of SYNC or BEACON at the present course time (R131, R132, R136). -/
def mark (r : Reference) (s : State) : State :=
  let x := s.clock.ref r
  let t := { s with clock := s.clock.setRef r { x with reference := some s.now, watch := s.now + missingInterval } }
  match x.period r s.now with
  | none => t
  | some true => setLead r (judgeRef r true t)
  | some false => judgeRef r false t

/-- SYNC_MARK (R131). -/
def execSyncMark (s : State) : Result := ifDue (!s.held) s (mark .sync s)

/-- TIME BEACON (R133). -/
def timeBeacon (_ : Unit) (s : State) : Reply :=
  let t := mark .beacon s
  let b := t.clock.beacon
  .ok (t, le 1 b.state.code ++ le 1 (if b.state = .starting then b.count else 0) ++ le 1 t.clock.current.code)

def execTimeBeacon (p : Port) (s : State) : Result := serve p (ofKind Kind.timeBeacon) Layout.empty timeBeacon s

/-- The missing watch of a reference has expired (R131). -/
def missingDue (r : Reference) (s : State) : Bool := !s.held && decide ((s.clock.ref r).watch ≤ s.now)

/-- A missing period: the reference becomes absent, the watch is set 1,500 ms after its expiry (R131, R132). -/
def missing (r : Reference) (s : State) : State :=
  let x := s.clock.ref r
  judgeRef r false { s with clock := s.clock.setRef r { x with reference := none, watch := x.watch + missingInterval } }

/-- MISSING_PERIOD (R131). -/
def execMissingPeriod (r : Reference) (s : State) : Result := ifDue (missingDue r s) s (missing r s)

/-! ### The XO (R134) -/

/-- A STARTING XO has counted 65,535 consecutive cycles, so that its next one is the 65,536th (R134; log entry 8). -/
def xoDue (s : State) : Bool := !s.held && s.clock.xo.state == .starting && decide (65535 ≤ s.clock.xo.count)

/-- XO_QUALIFY: the 65,536th consecutive cycle of a STARTING XO (R134). -/
def execXoQualify (s : State) : Result :=
  ifDue (xoDue s) s
    { s with clock := { s.clock with xo := { s.clock.xo with state := .qualified, count := 0 } } }

/-- The XO after a gap (R134). -/
def XoState.gap (x : XoState) : XoState :=
  { x with windowGap := true, count := 0, state := if x.state = .qualified then .failed else x.state }

/-- XO_GAP (R134): the count resets or the XO fails. -/
def execXoGap (s : State) : Result :=
  let t := { s with clock := { s.clock with xo := s.clock.xo.gap } }
  ifDue (!s.held) s (if s.clock.xo.state = .qualified then sourceFailed .xo t else t)

/-- The count of a window lies within 3 % of nominal (R134). -/
def windowGood (cycles : Nat) : Bool := decide (8192000 - 245760 ≤ cycles) && decide (cycles ≤ 8192000 + 245760)

/-- The XO at the end of a comparison window (R134); the next window begins without a gap. -/
def XoState.windowEnd (x : XoState) (cycles : Nat) : XoState :=
  match x.state with
  | .starting => { x with windowGap := false }
  | .qualified => { x with windowGap := false, state := if windowGood cycles then .qualified else .failed }
  | .failed =>
    if windowGood cycles && !x.windowGap then { state := .starting, count := 0, windowGap := false }
    else { x with windowGap := false }

/-- COMPARISON_WINDOW_END (R134). -/
def execComparisonWindowEnd (cycles : Nat) (s : State) : Result :=
  let t := { s with clock := { s.clock with xo := s.clock.xo.windowEnd cycles } }
  ifDue (!s.held) s
    (if s.clock.xo.state = .qualified ∧ t.clock.xo.state = .failed then sourceFailed .xo t else t)

/-! ### Switches (R137-R139) -/

/-- A whole second of course time whose event has not been taken (R137; log entry 12). -/
def wholeSecond (s : State) : Bool :=
  !s.held && decide (s.now % 1000 = 0) && decide (s.clock.secondTaken ≠ s.now)

/-- The requested source, when it is QUALIFIED (R137). -/
def Timebase.readyRequest (c : Timebase) : Option Source :=
  c.requested.filter (fun r => c.sourceState r == .qualified)

/-- At this whole second a switch waits to complete (R137). -/
def switchWaits (s : State) : Bool := wholeSecond s && s.clock.readyRequest.isSome

/-- A fallback that R144 owes at once goes before the event of a whole second. -/
def secondDue (s : State) : Bool := wholeSecond s && !s.clock.fallbackDue

/-- SWITCH_COMPLETION (R137): a whole second; the switch completes when the requested source is QUALIFIED. -/
def switchSecond (s : State) : State :=
  let c := { s.clock with secondTaken := s.now }
  match s.clock.readyRequest with
  | some r =>
    let c' := { c with current := r, requested := none, lead := 0 }
    { s with clock := c' }.notice Kind.clockNotice (clockNoticePayload 0 s.clock.current c' none)
  | none => { s with clock := c }

def execSwitchCompletion (s : State) : Result := ifDue (secondDue s) s (switchSecond s)

/-- The next whole second: this one while its event has not been taken (R138, R139; log entry 12). -/
def nextWholeSecond (s : State) : Nat := if wholeSecond s then s.now else (s.now / 1000 + 1) * 1000

/-- CLOCK SELECT of a source, once it is neither out of range nor locked (R138). -/
def selectSource (x : Source) (s : State) : State × List Byte :=
  let before := le 1 (requestedCode s.clock.requested)
  if x = s.clock.current then
    let c := { s.clock with requested := none }
    let t := { s with clock := c }
    let t := match s.clock.requested with
      | some old => t.notice Kind.clockNotice (clockNoticePayload 2 s.clock.current c (some old))
      | none => t
    (t, le 1 0 ++ before ++ ones 6)
  else
    let t := { s with clock := { s.clock with requested := some x } }
    if s.clock.sourceState x = .qualified then (t, le 1 1 ++ before ++ le 6 (nextWholeSecond s))
    else (t, le 1 2 ++ before ++ ones 6)

/-- CLOCK SELECT (R138, R143). -/
def clockSelect (code : Nat) (s : State) : Reply :=
  match Source.ofCode? code with
  | none => .error .range
  | some x => if s.clock.lock && !s.clock.clockFail then .error .locked else .ok (selectSource x s)

def execClockSelect (p : Port) (s : State) : Result := serve p (ofKind Kind.clockSelect) (Layout.one 1) clockSelect s

/-! ### Lock, flag and setup (R140, R143, R144) -/

def lockResults (c : Timebase) : List Byte := le 1 (yesNo c.lock) ++ le 1 (yesNo c.clockFail)

/-- CLOCK LOCK (R140). -/
def clockLock (_ : Unit) (s : State) : Reply :=
  let c := { s.clock with lock := true }
  .ok ({ s with clock := c }, lockResults c)

def execClockLock (p : Port) (s : State) : Result := serve p (ofKind Kind.clockLock) Layout.empty clockLock s

/-- CLOCK FAIL CLEAR (R143). -/
def clockFailClear (_ : Unit) (s : State) : Reply :=
  let c := { s.clock with clockFail := false }
  .ok ({ s with clock := c }, lockResults c)

def execClockFailClear (p : Port) (s : State) : Result :=
  serve p (ofKind Kind.clockFailClear) Layout.empty clockFailClear s

/-- CLOCK SETUP (R144): LOCKED whatever the clock-fail flag. Turning fail-safe on while the current source is FAILED makes
the deferred fallback due. -/
def clockSetup (r : Nat × Nat) (s : State) : Reply :=
  match onOff? r.1, StartTarget.ofCode? r.2 with
  | some enable, some target =>
    if s.clock.lock then .error .locked
    else
      let owed := enable && !s.clock.failSafe && s.clock.sourceState s.clock.current == .failed
      .ok ({ s with clock := { s.clock with
          failSafe := enable, startTarget := target, fallbackDue := s.clock.fallbackDue || owed } },
        le 1 (yesNo enable) ++ le 1 target.code)
  | _, _ => .error .range

def execClockSetup (p : Port) (s : State) : Result := serve p (ofKind Kind.clockSetup) Layout.clockSetup clockSetup s

/-- Fail-safe was turned on while the current source was FAILED, and its fallback has not been taken (R144). -/
def deferredDue (s : State) : Bool := !s.held && s.clock.fallbackDue

/-- DEFERRED_FALLBACK (R144): the fallback of R141 without raising TIMEBASE again. -/
def execDeferredFallback (s : State) : Result := ifDue (deferredDue s) s (fallback s.clock.current s)

/-! ### Counting (R127, R136) -/

/-- Course time advanced by `n` ms; past its last value the manual gives no effect (R127; log entry 9). -/
def advanceTime (n : Nat) (s : State) (t : Timebase → Timebase) : Result :=
  if s.now + n ≤ maxCourseTime then
    .next { s with clock := t { s.clock with courseTime := s.now + n } }
  else .fault .courseTimeEnds

/-- The lead after a slewed second (R136). -/
def slewLead (lead : Int) : Int := if 0 < lead then lead - 1 else if lead < 0 then lead + 1 else 0

/-- The second of the counting oscillator is complete but for the slew (R136; log entry 11): 999 of its milliseconds are
counted while the lead is positive, all 1,000 while it is negative. A slew that would move course time past a whole second
waits for the switch of that second (R137). -/
def slewDue (s : State) : Bool :=
  !s.held && ((decide (0 < s.clock.lead) && decide (s.clock.oscMs = 999))
    || (decide (s.clock.lead < 0) && decide (1000 ≤ s.clock.oscMs) && !switchWaits s))

/-- LEAD_SLEW (R136): the second ends. While the lead is positive its last millisecond advances course time by nothing, so
that the second gives 999 ms; while it is negative a further millisecond is added, so that it gives 1,001. -/
def execLeadSlew (s : State) : Result :=
  if slewDue s then
    advanceTime (if 0 < s.clock.lead then 0 else 1) s (fun c => { c with oscMs := 0, lead := slewLead c.lead })
  else .next s

/-- A STARTING XO's count after a millisecond: how many cycles passed is free; at 65,535 XO_QUALIFY is due (R134;
log entry 8). -/
def XoState.tick (x : XoState) (n : Nat) : XoState :=
  if x.state = .starting then { x with count := min 65535 (x.count + Config.xoCycles n) } else x

/-- One millisecond of the counting oscillator (R127; log entry 3). -/
def tick (s : State) : Result :=
  if s.held then .next s
  else advanceTime 1 { s with choices := s.choices + 1 } (fun c =>
    { c with
      oscMs := if c.lead < 0 then c.oscMs + 1 else (c.oscMs + 1) % 1000
      xo := c.xo.tick s.choices })

end Sys2Proof.Machine
end

