-- ==== Sys2Proof/Machine/Corrections.lean ====
section
/-! DEFINITION. Corrections (08): WITHDRAW, REINSTATE, AMEND, CROSSING ENTER. -/

namespace Sys2Proof.Machine

/-! ### WITHDRAW and REINSTATE -/

/-- A lane without the postings of a bib (R123). -/
def laneWithout (bib : Nat) (lane : List BoardPosting) : List BoardPosting := lane.filter (fun b => b.bib != bib)

/-- The number of board postings of a bib. -/
def Board.postingsOf (b : Board) (bib : Nat) : Nat :=
  ((b.lead ++ b.feat ++ b.flow).filter (fun x => x.bib == bib)).length

/-- Every board posting of the bib leaves its lane (R123). -/
def Board.withdraw (b : Board) (bib : Nat) : Board :=
  { b with lead := laneWithout bib b.lead, feat := laneWithout bib b.feat, flow := laneWithout bib b.flow }

/-- A record written with a new state, every other field kept (R149, R152). -/
def Directory.setRunnerState (d : Directory) (bib : Nat) (x : RunnerState) : Directory :=
  d.write bib { (d.record bib).fields with state := x }

/-- WITHDRAW (R148, R149). -/
def withdraw (bib : Nat) (s : State) : Reply :=
  if !bibOk bib then .error .range
  else if (s.dir.record bib).fields.state ≠ .entered then .error .state
  else if s.log.closed then .error .full
  else
    let log := s.log.append .voided bib none none SplitFlags.clear
    .ok ({ s with
        dir := s.dir.setRunnerState bib .withdrawn
        engine := s.engine.free bib
        log := log
        board := s.board.withdraw bib },
      le 4 log.newest ++ le 1 (yesNo (s.engine.find? bib).isSome) ++ le 1 (s.board.postingsOf bib))

def execWithdraw (p : Port) (s : State) : Result := serve p (ofKind Kind.withdraw) (Layout.one 2) withdraw s

/-- REINSTATE (R152). -/
def reinstate (bib : Nat) (s : State) : Reply :=
  if !bibOk bib then .error .range
  else if (s.dir.record bib).fields.state ≠ .withdrawn then .error .state
  else if s.log.closed then .error .full
  else
    let log := s.log.append .reinstated bib none none SplitFlags.clear
    .ok ({ s with dir := s.dir.setRunnerState bib .entered, log := log },
      le 4 log.newest ++ le 1 (s.dir.record bib).fields.made)

def execReinstate (p : Port) (s : State) : Result := serve p (ofKind Kind.reinstate) (Layout.one 2) reinstate s

/-! ### AMEND -/

/-- An entry that can be the reference entry of a bib's pass (R92). -/
def LogEntry.refersTo (e : LogEntry) (bib pass : Nat) : Bool :=
  e.bib == bib && e.figures.any (fun f => f.pass == pass)
    && (e.kind == .posted || e.kind == .manual || e.kind == .amended)

/-- The newest such entry retained (R92). -/
def SplitLog.reference (l : SplitLog) (bib pass : Nat) : Option LogEntry := l.entries.reverse.find? (·.refersTo bib pass)

/-- The gun bound of a runner: the gun time of the wave the record names, 0 while it is WAITING (R154). -/
def gunBound (s : State) (rec : RecordFields) : Nat := (s.dir.waveGun rec.wave).getD 0

/-- The refusal of an AMEND, in the order RANGE, STATE, FULL, UNKNOWN (R154, R128; log entry 14). -/
def amendRefusal (bib pass time : Nat) (s : State) : Option Reason :=
  let rec_ := (s.dir.record bib).fields
  if !bibOk bib ∨ pass = 0 ∨ 2 < pass ∨ s.engine.point.passes < pass then some .range
  else if s.raceNow?.any (fun now => decide (time < gunBound s rec_) || decide (now < time) || decide (maxRaceTime < time)) then
    some .range
  else if s.clock.epoch.isNone then some .state
  else if (s.engine.find? bib).any (fun c => c.pass == pass) then some .state
  else if s.log.closed then some .full
  else if rec_.made < pass then some .unknown
  else none

/-- A board posting, with new figures when it is of the bib and pass (R122). -/
def amendPosting (bib pass chipSeconds newPace : Nat) (b : BoardPosting) : BoardPosting :=
  if b.bib = bib ∧ b.pass = pass then { b with chipSeconds := chipSeconds, pace := newPace, amended := true } else b

/-- The lanes after an AMEND (R122). DESIGN CHOICE (log entry 30): where an upset has let a pass be offered twice, so that the
lanes hold more than the one posting R104 counts on, every posting of the bib and pass is amended. -/
def Board.amend (b : Board) (bib pass chipSeconds newPace : Nat) : Board :=
  let f := amendPosting bib pass chipSeconds newPace
  { b with lead := b.lead.map f, feat := b.feat.map f, flow := b.flow.map f }

/-- Whether a lane holds a posting of the bib and pass (R155). -/
def Board.holds (b : Board) (bib pass : Nat) : Bool :=
  (b.lead ++ b.feat ++ b.flow).any (fun x => x.bib == bib && x.pass == pass)

/-- An accepted AMEND (R155, R92, R122). -/
def acceptAmend (bib pass time : Nat) (s : State) : State × List Byte :=
  let rec_ := (s.dir.record bib).fields
  let reference := s.log.reference bib pass
  let figs := figures s.engine.point pass time (gunBound s rec_) rec_.start
  let place := reference.bind LogEntry.place
  let log := s.log.append .amended bib (some figs) place (amendedFlags rec_ s.quality (reference.map LogEntry.flags))
  ({ s with
      dir := if pass = rec_.made then s.dir.write bib { rec_ with last := some time } else s.dir
      log := log
      board := s.board.amend bib pass (figs.chipSplit / 1000) figs.pace },
    le 4 log.newest ++ le 4 figs.gunSplit ++ le 4 figs.chipSplit ++ le 4 figs.pace ++ le 2 (place.getD 0)
      ++ le 1 (yesNo (s.board.holds bib pass)))

/-- AMEND (R154, R155). -/
def amend (r : Nat × Nat × Nat) (s : State) : Reply :=
  match amendRefusal r.1 r.2.1 r.2.2 s with
  | some reason => .error reason
  | none => .ok (acceptAmend r.1 r.2.1 r.2.2 s)

def execAmend (p : Port) (s : State) : Result := serve p (ofKind Kind.amend) Layout.amend amend s

/-! ### CROSSING ENTER -/

/-- The refusal of a CROSSING ENTER, in the order RANGE, STATE (R157, R128; log entry 14). -/
def enterRefusal (bib time : Nat) (s : State) : Option Reason :=
  let rec_ := (s.dir.record bib).fields
  let gun := s.dir.waveGun rec_.wave
  if !bibOk bib then some .range
  else if s.raceNow?.any (fun now =>
      gun.any (fun g => decide (time < g)) || rec_.last.any (fun t => decide (time < t)) || decide (now < time)
        || decide (maxRaceTime < time)) then
    some .range
  else if s.clock.epoch.isNone ∨ rec_.state ≠ .entered ∨ gun.isNone = true ∨ (s.engine.find? bib).isSome = true
      ∨ s.engine.point.passes ≤ rec_.made then
    some .state
  else none

/-- The inputs of a manual crossing (R91). -/
def manualInput (bib time : Nat) (s : State) : PostInput :=
  { kind := .manual, bib := bib, pass := (s.dir.record bib).fields.made + 1, time := time, quality := s.quality,
    bothFeeds := false, held := false }

/-- The results of CROSSING ENTER (R158, R201). -/
def enterResults (x : Posted) : List Byte :=
  le 1 x.figures.pass ++ le 2 x.place ++ le 4 x.seq ++ le 4 x.figures.gunSplit ++ le 4 x.figures.chipSplit
    ++ le 4 x.figures.pace ++ le 1 (x.flags.byte false) ++ le 1 (yesNo (!x.flags.late))

/-- CROSSING ENTER (R157, R158). -/
def crossingEnter (r : Nat × Nat) (s : State) : Reply :=
  match enterRefusal r.1 r.2 s, s.raceNow? with
  | some reason, _ => .error reason
  | none, none => .error .state
  | none, some now =>
    let (x, t) := post (manualInput r.1 r.2 s) now s
    .ok (t, enterResults x)

def execCrossingEnter (p : Port) (s : State) : Result :=
  serve p (ofKind Kind.crossingEnter) Layout.crossingEnter crossingEnter s

end Sys2Proof.Machine
end

