-- ==== Sys2Proof/Machine/Crossing.lean ====
section
/-! DEFINITION. The crossing engine (03): POINT SET, the judgement of a read, and the expiry of a deadline. -/

namespace Sys2Proof.Machine

/-! ### Point settings (R40) -/

/-- The ranges of the point settings (03 section 3.2). -/
def PointOk (p : PointSettings) : Bool :=
  decide (1 ≤ p.passes) && decide (p.passes ≤ 2) && decide (1 ≤ p.distance1) && decide (p.distance1 ≤ 50000)
    && decide (p.distance1 < p.distance2) && decide (p.distance2 ≤ 50000) && decide (2000 ≤ p.settleWindow)
    && decide (p.settleWindow ≤ 30000) && decide (10 ≤ p.rearmGap) && decide (p.rearmGap ≤ 240) && decide (30 ≤ p.lateLimit)
    && decide (p.lateLimit ≤ 600)

def pointBytes (p : PointSettings) : List Byte :=
  le 1 p.passes ++ le 1 0 ++ le 2 p.distance1 ++ le 2 p.distance2 ++ le 4 p.settleWindow ++ le 2 p.rearmGap
    ++ le 2 p.lateLimit

/-- POINT SET (R40). -/
def pointSet (p : PointSettings) (s : State) : Reply :=
  if !PointOk p then .error .range
  else if s.clock.epoch.isSome then .error .state
  else .ok ({ s with engine := { s.engine with point := p } }, pointBytes p)

def execPointSet (p : Port) (s : State) : Result := serve p (ofKind Kind.pointSet) Layout.pointSet pointSet s

/-! ### The intake arbiter (R42) -/

/-- The fixed cycle of the queues (R42). -/
def Turn.next : Turn → Turn
  | .feedA => .feedB
  | .feedB => .release
  | .release => .feedA

/-- A read of a feed queue is judged with the feed of that queue (R42). -/
def Read.judged (r : Read) (f : Feed) : JudgedRead :=
  { chip := r.chip, feed := f, time := r.time, quality := r.quality, held := false }

/-- A released read carries its own feed, time and quality, and the held mark (R42, R80). -/
def ReleasedRead.judged (r : ReleasedRead) : JudgedRead :=
  { chip := r.chip, feed := r.feed, time := r.time, quality := r.quality, held := true }

/-- The oldest read of a queue, and the state once it has been taken (R28, R79). -/
def takeFrom (s : State) : Turn → Option (JudgedRead × State)
  | .feedA => match s.feeds.a.queue with
    | r :: rest => some (r.judged .a, s.setFeed .a { s.feeds.a with queue := rest })
    | [] => none
  | .feedB => match s.feeds.b.queue with
    | r :: rest => some (r.judged .b, s.setFeed .b { s.feeds.b with queue := rest })
    | [] => none
  | .release => match s.hold.release with
    | r :: rest => some (r.judged, { s with hold := { s.hold with release := rest } })
    | [] => none

/-- The take: the queue next in turn, or the first along the cycle that holds a read; next in turn is then the queue that
follows the chosen one (R42). -/
def arbiterTake (s : State) : Option (JudgedRead × State) :=
  let turn := s.engine.nextTurn
  let from_ (t : Turn) : Option (JudgedRead × State) :=
    (takeFrom s t).map (fun r => (r.1, { r.2 with engine := { r.2.engine with nextTurn := t.next } }))
  (from_ turn).or ((from_ turn.next).or (from_ turn.next.next))

/-! ### Resolution (R12, R44-R51) -/

/-- The directory's answer to a chip code (R12). -/
inductive Resolution
  | bib (b : Nat)
  | barred
  | noBib
  deriving DecidableEq, Repr

def resolveChip (d : Directory) (chip : Nat) : Resolution :=
  if chip ≤ maxBib then .bib chip
  else match d.aliasOf chip with
    | some 0 => .barred
    | some (b + 1) => .bib (b + 1)
    | none => .noBib

/-- The merge of a read into its runner's open crossing (R48, R54). -/
def OpenCrossing.merge (c : OpenCrossing) (r : JudgedRead) (now : Nat) : OpenCrossing :=
  let merged := { c with
    time := min c.time r.time
    seenA := c.seenA || r.feed == .a
    seenB := c.seenB || r.feed == .b
    quality := c.quality.worse r.quality
    held := c.held || r.held }
  if (merged.seenA && merged.seenB) && !(c.seenA && c.seenB) then merged.bringForward now else merged

/-- The crossing a read opens (R50), its deadline set from the partner's waiting status (R52). -/
def openedCrossing (bib : Nat) (rec : RecordFields) (r : JudgedRead) (now settle : Nat) (partnerWaiting : Bool) :
    OpenCrossing :=
  { bib := bib, pass := rec.made + 1, opener := r.feed, seenA := r.feed == .a, seenB := r.feed == .b, time := r.time,
    quality := r.quality, held := r.held, openedAt := now,
    deadline := now + if partnerWaiting then settle else loneWindow }

/-- An opening: the entry, OPENED, and CROSSING FULL when it uses the last free entry (R50, R64). -/
def openCrossing (bib : Nat) (rec : RecordFields) (r : JudgedRead) (s : State) : State :=
  let c := openedCrossing bib rec r s.now s.engine.point.settleWindow (s.feed r.feed.other).waiting
  let t := s.count r.feed .opened
  let u := { t with engine := { t.engine with crossings := t.engine.crossings ++ [c] } }
  if u.engine.crossings.length = crossingCap then raiseFault .crossingFull bib u else u

/-- A read too soon after the runner's last crossing (R49). -/
def strayRead (rec : RecordFields) (point : PointSettings) (time : Nat) : Bool :=
  decide (1 ≤ rec.made) && rec.last.any (fun t => decide (time < t + point.rearmGap * 60000))

/-- Steps 6 to 9: merge, STRAY, EXCESS or an opening (R48-R50). -/
def placeRead (bib : Nat) (rec : RecordFields) (r : JudgedRead) (s : State) : State :=
  match s.engine.find? bib with
  | some c =>
    let t := s.count r.feed .merged
    { t with engine := t.engine.replace (c.merge r s.now) }
  | none =>
    if strayRead rec s.engine.point r.time then s.count r.feed .stray
    else if s.engine.point.passes ≤ rec.made then s.count r.feed .excess
    else openCrossing bib rec r s

/-- Steps 2 to 9 for a bib whose record, as returned by the directory, is not EMPTY (R45-R50). -/
def judgeRunner (bib : Nat) (rec : RecordFields) (r : JudgedRead) (raceNow : Nat) (s : State) : State :=
  if rec.suspect then holdRead r (.suspect bib) s
  else if rec.state = .withdrawn then s.count r.feed .withdrawn
  else if raceNow + futureTolerance < r.time then s.count r.feed .future
  else match s.dir.waveGun rec.wave with
    | none => holdRead r (.wave bib rec.wave) s
    | some gun => if r.time < gun then s.count r.feed .beforeGun else placeRead bib rec r s

/-- The whole judgement of a taken read, at race time `raceNow` (R43, R44). -/
def judge (r : JudgedRead) (raceNow : Nat) (s : State) : State :=
  match resolveChip s.dir r.chip with
  | .barred => s.count r.feed .barred
  | .noBib => holdRead r .unknownChip s
  | .bib b =>
    let (rec, t) := readChecked b s
    if rec.state = .empty then holdRead r .unknownChip t else judgeRunner b rec r raceNow t

/-- A take is due: the table has a free entry and a queue holds a read; race time always exists then (R42, R43; log
entry 16). -/
def nextJudgement (s : State) : Option State :=
  if s.held || decide (crossingCap ≤ s.engine.crossings.length) then none
  else match s.raceNow?, arbiterTake s with
    | some now, some (r, t) => some (judge r now t)
    | _, _ => none

/-- READ_JUDGEMENT (R42, R43). -/
def execReadJudgement (s : State) : Result := .next ((nextJudgement s).getD s)

/-! ### Deadlines (R56-R58) -/

/-- The inputs of a settled crossing (R57). -/
def OpenCrossing.input (c : OpenCrossing) : PostInput :=
  { kind := .posted, bib := c.bib, pass := c.pass, time := c.time, quality := c.quality, bothFeeds := c.seenA && c.seenB,
    held := c.held }

/-- The open crossing of a bib whose deadline course time has reached, with race time now (R56). -/
def dueCrossing (bib : Nat) (s : State) : Option (OpenCrossing × Nat) :=
  if s.held then none
  else match s.engine.find? bib, s.raceNow? with
    | some c, some now => if c.deadline ≤ s.now then some (c, now) else none
    | _, _ => none

/-- The posting of a settled crossing, whose entry is freed last (R58). -/
def settleCrossing (c : OpenCrossing) (raceNow : Nat) (s : State) : State :=
  let t := (post c.input raceNow s).2
  { t with engine := t.engine.free c.bib }

/-- DEADLINE_EXPIRY (R56). -/
def execDeadlineExpiry (bib : Nat) (s : State) : Result :=
  match dueCrossing bib s with
  | some (c, now) => .next (settleCrossing c now s)
  | none => .next s

end Sys2Proof.Machine
end

