-- ==== Sys2Proof/Machine/Directory.lean ====
section
/-! DEFINITION. Requests of the runner directory (01): RUNNER LOAD, RUNNER READ, ALIAS SET, ALIAS CLEAR, WAVE START, WAVE SET; and an
upset of a stored record (R2). -/

namespace Sys2Proof.Machine

/-! ### Loading and reading runners -/

/-- The RANGE conditions of one load record (R5). -/
def loadRange (r : Layout.LoadRecord) : Bool :=
  !bibOk r.bib || decide (31 < r.wave) || decide (7 < r.division) || (onOff? r.featured).isNone
    || r.start.any (fun t => decide (maxRaceTime < t))

/-- The fields a load record writes (R7). -/
def loadFields (old : RecordFields) (r : Layout.LoadRecord) : RecordFields :=
  { old with state := .entered, wave := r.wave, division := r.division, featured := (onOff? r.featured).getD false,
             nameTag := r.nameTag, start := r.start, suspect := false }

/-- One load record written (R6, R7). -/
def loadOne (d : Directory) (r : Layout.LoadRecord) : Directory := d.write r.bib (loadFields (d.record r.bib).fields r)

/-- An entry that the load of these bibs releases (R8, R78). -/
def suspectOf (bibs : List Nat) (e : HoldEntry) : Bool :=
  match e.reason with
  | .suspect b => bibs.contains b
  | .wave _ _ => false
  | .unknownChip => false

/-- RUNNER LOAD (R5-R8). -/
def runnerLoad (rs : List Layout.LoadRecord) (s : State) : Reply :=
  if rs.length = 0 ∨ 64 < rs.length ∨ rs.any loadRange then .error .range
  else if rs.any (fun r => (s.dir.record r.bib).fields.state == .withdrawn) then .error .state
  else
    .ok ({ s with dir := rs.foldl loadOne s.dir, hold := s.hold.mark (suspectOf (rs.map Layout.LoadRecord.bib)) },
      le 1 rs.length)

def execRunnerLoad (p : Port) (s : State) : Result :=
  serve p (ofKind Kind.runnerLoad) Layout.runnerLoad runnerLoad s

/-- The answer to RUNNER READ (R9, R201). -/
def recordBytes (bib : Nat) (r : RecordFields) : List Byte :=
  le 2 bib ++ le 1 r.state.code ++ le 1 (yesNo r.suspect) ++ le 1 r.wave ++ le 1 r.division ++ le 1 (yesNo r.featured)
    ++ le 1 r.made ++ le 2 r.nameTag ++ leOpt 4 r.start ++ leOpt 4 r.last

/-- RUNNER READ (R9), with the integrity check of R3. -/
def runnerRead (bib : Nat) (s : State) : Reply :=
  if bibOk bib then
    let (r, t) := readChecked bib s
    .ok (t, recordBytes bib r)
  else .error .range

def execRunnerRead (p : Port) (s : State) : Result :=
  serve p (ofKind Kind.runnerRead) (Layout.one 2) runnerRead s

/-! ### The alias map -/

/-- ALIAS SET (R14). -/
def aliasSet (r : Nat × Nat) (s : State) : Reply :=
  if r.1 ≤ maxBib ∨ maxBib < r.2 then .error .range
  else match s.dir.writeAlias r.1 r.2 with
    | (.notWritten, _) => .error .full
    | (w, d) => .ok ({ s with dir := d }, le 1 w.code ++ le 2 d.aliasFree)

def execAliasSet (p : Port) (s : State) : Result := serve p (ofKind Kind.aliasSet) Layout.aliasSet aliasSet s

/-- ALIAS CLEAR (R15). -/
def aliasClear (chip : Nat) (s : State) : Reply :=
  if chip ≤ maxBib then .error .range
  else if (s.dir.aliasOf chip).isNone then .error .unknown
  else
    let d := { s.dir with aliasMap := s.dir.aliasMap.filter (fun e => e.1 != chip) }
    .ok ({ s with dir := d }, le 2 d.aliasFree)

def execAliasClear (p : Port) (s : State) : Result := serve p (ofKind Kind.aliasClear) (Layout.one 4) aliasClear s

/-! ### Waves -/

/-- An entry held for a runner of the wave (R18, R78). -/
def waitsForWave (wave : Nat) (e : HoldEntry) : Bool :=
  match e.reason with
  | .wave _ w => w == wave
  | .suspect _ => false
  | .unknownChip => false

/-- WAVE START (R18, R128): while UNSET the gun time is compared with nothing (log entry 14). -/
def waveStart (r : Nat × Option Nat) (s : State) : Reply :=
  if 31 < r.1 then .error .range
  else match s.raceNow? with
    | none => .error .state
    | some now =>
      let gun := r.2.getD now
      if now < gun ∨ maxRaceTime < gun then .error .range
      else if (s.dir.waveGun r.1).isSome then .error .state
      else
        .ok ({ s with dir := s.dir.startWave r.1 gun, hold := s.hold.mark (waitsForWave r.1) }, le 1 r.1 ++ le 4 gun)

def execWaveStart (p : Port) (s : State) : Result := serve p (ofKind Kind.waveStart) Layout.waveStart waveStart s

/-- WAVE SET (R19): a gun time above 86,400,000 ms is out of range whatever the race clock (R128, R181; log entry 14). -/
def waveSet (r : Nat × Nat) (s : State) : Reply :=
  if 31 < r.1 ∨ maxRaceTime < r.2 then .error .range
  else match s.raceNow? with
    | none => .error .state
    | some now =>
      if now < r.2 then .error .range
      else if (s.dir.waveGun r.1).isNone then .error .state
      else .ok ({ s with dir := s.dir.startWave r.1 r.2 }, le 1 r.1 ++ le 4 r.2)

def execWaveSet (p : Port) (s : State) : Result := serve p (ofKind Kind.waveSet) Layout.waveSet waveSet s

/-! ### Storage -/

/-- RECORD_UPSET (R2): the stored content changes within the fields' ranges, the check code stays that of the earlier
content. -/
def execRecordUpset (bib : Nat) (content : RecordFields) (s : State) : Result :=
  ifDue (bibOk bib && content.inRange) s
    { s with dir := s.dir.setRecord bib { s.dir.record bib with fields := content } }

end Sys2Proof.Machine
end

