-- ==== Sys2Proof/Machine/Feed.lean ====
section
/-! DEFINITION. Feed intake (02): REPORT, MAT STATE and the silence expiry. -/

namespace Sys2Proof.Machine

/-- The reads of an accepted report: as sent, or stamped with race time now and the current quality (R30, R31). -/
def reportReads (r : Layout.Report) (quality : Quality) (raceNow : Nat) (current : Quality) : List Read :=
  r.reads.map fun e =>
    if r.clockless then { chip := e.1, time := raceNow, quality := current }
    else { chip := e.1, time := e.2, quality := quality }

/-- The RANGE conditions of a report that do not read the race clock (R29). -/
def reportRange (r : Layout.Report) : Bool :=
  decide (r.reads.length = 0) || decide (32 < r.reads.length) || r.reads.any (fun e => e.1 == 0)
    || (!r.clockless && (r.reads.any (fun e => decide (maxRaceTime < e.2)) || (Quality.ofCode? r.quality).isNone))

/-- REPORT (R29-R32) of feed `f`: checked whole, then appended whole. -/
def report (f : Feed) (r : Layout.Report) (s : State) : Reply :=
  if reportRange r then .error .range
  else match s.raceNow? with
    | none => .error .state
    | some now =>
      let fs := s.feed f
      if r.clockless && decide (maxRaceTime < now) then .error .range
      else if feedQueueCap < fs.queue.length + r.reads.length then .error .full
      else
        let queue := fs.queue ++ reportReads r ((Quality.ofCode? r.quality).getD .exact) now s.quality
        let counts := fs.counts.add r.reads.length .queued
        .ok (s.setFeed f { fs with queue := queue, counts := counts },
          le 1 r.reads.length ++ le 1 0 ++ le 2 (feedQueueCap - queue.length))

/-- REPORT reaches the intake of the port's feed; ports C and D have none and refuse it ROLE (R22, R183). -/
def execReport (p : Port) (s : State) : Result :=
  serve p (ofKind Kind.report) Layout.report
    (fun r s => match p.feed? with
      | some f => report f r s
      | none => .error .role) s

/-- MAT STATE (R25, R26). -/
def matState (f : Feed) (code : Nat) (s : State) : Reply :=
  match MatState.ofCode? code with
  | none => .error .range
  | some m =>
    let t := s.updateFeed f { s.feed f with mat := m }
    let depth := (s.feed f).queue.length
    .ok (t, le 1 m.code ++ le 2 depth ++ le 2 (feedQueueCap - depth))

def execMatState (p : Port) (s : State) : Result :=
  serve p (ofKind Kind.matState) (Layout.one 1)
    (fun code s => match p.feed? with
      | some f => matState f code s
      | none => .error .role) s

/-- 5,000 ms of course time have passed since the time of the last frame of an ACTIVE link (R24). -/
def silenceDue (f : Feed) (s : State) : Bool :=
  !s.held && (s.feed f).link == .active &&
    match (s.feed f).lastFrame with
    | some t => decide (t + silenceInterval ≤ s.now)
    | none => false

/-- SILENCE_EXPIRY (R24, R26): FEED is raised while the race clock is RUNNING, and the waiting status is computed anew. -/
def silence (f : Feed) (s : State) : State :=
  let t := if s.clock.epoch.isSome then raiseFault .feed f.code s else s
  t.updateFeed f { t.feed f with link := .silent }

def execSilenceExpiry (f : Feed) (s : State) : Result := ifDue (silenceDue f s) s (silence f s)

end Sys2Proof.Machine
end

