-- ==== Sys2Proof/Machine/Hold.lean ====
section
/-! DEFINITION. The hold unit (04): HOLDS READ, HOLD RESOLVE, HOLD TIMEOUT SET, the timeout expiry and the release move. -/

namespace Sys2Proof.Machine

/-! ### HOLDS READ (R74) -/

/-- One entry of the answer (R201). -/
def holdBytes (index : Nat) (e : HoldEntry) : List Byte :=
  le 4 e.chip ++ le 1 index ++ le 1 e.reason.code ++ le 2 (e.reason.bib?.getD 0) ++ le 1 (e.reason.wave?.getD 0xFF)
    ++ le 1 e.feed.code ++ le 1 e.quality.code ++ le 1 e.count ++ le 4 e.time ++ le 6 e.enteredAt
    ++ le 1 (yesNo e.releasing) ++ le 1 0

/-- Entries with their list indexes, from an index onward. -/
def holdRows : Nat → List HoldEntry → List Byte
  | _, [] => []
  | i, e :: rest => holdBytes i e ++ holdRows (i + 1) rest

/-- HOLDS READ (R74). -/
def holdsRead (start : Nat) (s : State) : Reply :=
  let list := s.hold.list
  if 63 < start ∨ list.length < start then .error .range
  else
    let carried := (list.drop start).take 16
    .ok (s, le 1 list.length ++ le 1 (yesNo s.hold.holdOver) ++ le 1 s.hold.release.length ++ le 2 s.hold.timeout
      ++ le 1 carried.length ++ le 1 0 ++ holdRows start carried)

def execHoldsRead (p : Port) (s : State) : Result := serve p (ofKind Kind.holdsRead) (Layout.one 1) holdsRead s

/-! ### HOLD RESOLVE (R75-R77) -/

/-- The resolution byte of a HOLD RESOLVE frame names REJECT (R197). -/
def namesReject (f : Frame) : Bool := u8 4 f.payload == 1

/-- The RANGE conditions of HOLD RESOLVE (R75). -/
def resolveRange (r : Layout.Resolve) : Bool :=
  decide (1 < r.resolution) || decide (r.chip = 0)
    || (decide (r.resolution = 0) && (!bibOk r.bib || (decide (r.chip ≤ maxBib) && decide (r.bib ≠ r.chip))))

/-- The refusal of a HOLD RESOLVE, in the order RANGE, STATE, FULL, UNKNOWN (R75). -/
def resolveRefusal (r : Layout.Resolve) (s : State) : Option Reason :=
  let noRoom := decide (maxBib < r.chip) && (s.dir.aliasOf r.chip).isNone && decide (aliasCap ≤ s.dir.aliasMap.length)
  if resolveRange r then some .range
  else if r.resolution = 0 ∧ (s.dir.record r.bib).fields.state ≠ .entered then some .state
  else if (s.hold.find? r.chip).any HoldEntry.releasing then some .state
  else if r.resolution = 0 ∧ noRoom = true then some .full
  else if (s.hold.find? r.chip).isNone then some .unknown
  else none

/-- The alias map write of a resolution: a direct code is not written (R76, R77). -/
def resolveWrite (chip bib : Nat) (d : Directory) : AliasWrite × Directory :=
  if maxBib < chip then d.writeAlias chip bib else (.notWritten, d)

/-- The results of HOLD RESOLVE (R201). -/
def resolveResults (r : Layout.Resolve) (w : AliasWrite) (d : Directory) : List Byte :=
  le 4 r.chip ++ le 1 r.resolution ++ le 1 w.code ++ le 2 d.aliasFree

/-- An accepted ADMIT (R76): the alias map is written where the code needs it, the entry is marked releasing. -/
def acceptAdmit (r : Layout.Resolve) (s : State) : State × List Byte :=
  let (w, d) := resolveWrite r.chip r.bib s.dir
  ({ s with dir := d, hold := s.hold.mark (fun e => e.chip == r.chip) }, resolveResults r w d)

/-- An accepted REJECT (R77): the entry leaves the list, BARRED is counted against its feed, a bar is written where possible. -/
def acceptReject (r : Layout.Resolve) (s : State) : State × List Byte :=
  let (w, d) := resolveWrite r.chip 0 s.dir
  let t := match s.hold.find? r.chip with
    | some e => s.count e.feed .barred
    | none => s
  ({ t with dir := d, hold := t.hold.remove r.chip }, resolveResults r w d)

/-- HOLD RESOLVE, checked whole (R75). -/
def holdResolve (r : Layout.Resolve) (s : State) : Reply :=
  match resolveRefusal r s with
  | some reason => .error reason
  | none => .ok (if r.resolution = 1 then acceptReject r s else acceptAdmit r s)

/-- HOLD_RESOLVE_ADMIT: a HOLD RESOLVE whose resolution is not REJECT (log entry 21). -/
def execHoldResolveAdmit (p : Port) (s : State) : Result :=
  serve p (fun f => f.kind == Kind.holdResolve && !namesReject f) Layout.holdResolve holdResolve s

/-- HOLD_RESOLVE_REJECT: a HOLD RESOLVE whose resolution is REJECT. -/
def execHoldResolveReject (p : Port) (s : State) : Result :=
  serve p (fun f => f.kind == Kind.holdResolve && namesReject f) Layout.holdResolve holdResolve s

/-! ### Timeout and release -/

/-- HOLD TIMEOUT SET (R83). -/
def holdTimeoutSet (minutes : Nat) (s : State) : Reply :=
  if minutes = 0 ∨ 60 < minutes then .error .range
  else .ok ({ s with hold := { s.hold with timeout := minutes } }, le 2 minutes)

def execHoldTimeoutSet (p : Port) (s : State) : Result :=
  serve p (ofKind Kind.holdTimeoutSet) (Layout.one 2) holdTimeoutSet s

/-- The entry not marked releasing has reached entered at plus the hold timeout (R81). -/
def HoldEntry.expired (timeout now : Nat) (e : HoldEntry) : Bool :=
  !e.releasing && decide (e.enteredAt + timeout * 60000 ≤ now)

/-- The entry of a chip code, when it has timed out. -/
def timedOutEntry (chip : Nat) (s : State) : Option HoldEntry :=
  if s.held then none
  else (s.hold.find? chip).filter (HoldEntry.expired s.hold.timeout s.now)

/-- HOLD_TIMEOUT_EXPIRY (R81): the entry is removed and TIMED OUT counted once against its feed. -/
def execHoldTimeoutExpiry (chip : Nat) (s : State) : Result :=
  match timedOutEntry chip s with
  | some e =>
    let t := s.count e.feed .timedOut
    .next { t with hold := t.hold.remove chip }
  | none => .next s

/-- The released read an entry becomes (R80). -/
def HoldEntry.released (e : HoldEntry) : ReleasedRead :=
  { chip := e.chip, feed := e.feed, time := e.time, quality := e.quality, reason := e.reason, count := e.count }

/-- The oldest entry marked releasing, while the release queue has a free place (R79). -/
def moveDue (s : State) : Option HoldEntry :=
  if s.held || decide (releaseCap ≤ s.hold.release.length) then none else s.hold.list.find? HoldEntry.releasing

/-- The move of an entry to the release queue (R79, R72). -/
def HoldUnit.moveOut (h : HoldUnit) (e : HoldEntry) : HoldUnit :=
  { h.remove e.chip with release := h.release ++ [e.released] }

/-- RELEASE_MOVE (R79). -/
def execReleaseMove (s : State) : Result :=
  match moveDue s with
  | some e => .next { s with hold := s.hold.moveOut e }
  | none => .next s

end Sys2Proof.Machine
end

