-- ==== Sys2Proof/Machine/Link.lean ====
section
/-! DEFINITION. The course link (10): bytes received, frames discarded and sent, REQUEST OF NO KIND, TIME (R145) and DESCRIBE. -/

namespace Sys2Proof.Machine

/-! ### Receiving (R176-R178) -/

/-- A frame thrown away: the frame-discard count, saturating (R177). -/
def PortState.discard (ps : PortState) : PortState := { ps with discards := satAdd maxCount 1 ps.discards }

/-- The port stops assembling: the frame is counted as a discard when one was being assembled, and the port hunts from the
next byte (R177). -/
def PortState.cutFrame (ps : PortState) : PortState :=
  if ps.line = [] then ps else { ps with line := [] }.discard

/-- A frame is being assembled and more than 10 ms have passed since its last byte (R177). -/
def PortState.gap (ps : PortState) (now : Nat) : Bool :=
  ps.line != [] && scan ps.line == .partialFrame && decide (ps.lastByteAt + gapBound < now)

/-- Bytes received on the line at one course time: a frame whose gap has expired by then is discarded first (R177), and they
join the candidate, or are hunted through for one (R176; log entry 4). -/
def PortState.receive (ps : PortState) (bytes : List Byte) (now : Nat) : PortState :=
  if bytes = [] then ps
  else
    let ready := if ps.gap now then ps.cutFrame else ps
    { ready with line := hunt (ready.line ++ bytes), lastByteAt := now }

/-- The arrived frame joins the buffer, or is discarded and counted when the buffer holds 4 (R178). -/
def PortState.join (ps : PortState) (f : Frame) : PortState :=
  if ps.buffer.length < bufferCap then { ps with buffer := ps.buffer ++ [f] } else ps.discard

/-- The arrival of any frame on a feed's port makes its link ACTIVE (R23). -/
def FeedState.refresh (fs : FeedState) (now : Nat) : FeedState := { fs with link := .active, lastFrame := some now }

/-- At arrival a port bound to a feed hands the arrival to that feed's intake (R176, R23, R26). -/
def State.refreshLink (s : State) (p : Port) : State :=
  match p.feed? with
  | some f => s.updateFeed f ((s.feed f).refresh s.now)
  | none => s

/-- The arrival of the frame at the front of the line, `rest` behind it: the link is refreshed, the frame joins the buffer or
is counted, and the port hunts on in `rest` (R176, R178, R23). -/
def arrive (p : Port) (f : Frame) (rest : List Byte) (s : State) : State :=
  let t := s.refreshLink p
  t.setPort p ({ t.port p with line := hunt rest }.join f)

/-- FRAME_ARRIVAL (R176, R178, R23): the bytes complete a frame whose CRC matches; `rest` is hunted anew. Bytes that
complete none are received all the same (log entry 4). -/
def execFrameArrival (p : Port) (bytes : List Byte) (s : State) : Result :=
  if s.held then .next s
  else
    let got := s.setPort p ((s.port p).receive bytes s.now)
    match scan (got.port p).line with
    | .arrived f rest => .next (arrive p f rest got)
    | .partialFrame => .next got
    | .badLength => .next got
    | .badCrc => .next got

/-- The frame is discarded and the port hunts again from the byte after its start byte (R176, R177). -/
def PortState.discardFrame (ps : PortState) : PortState := { ps with line := hunt (ps.line.drop 1) }.discard

/-- The bytes are received, and the frame is discarded when that is what they amount to (R177; log entry 4). -/
def discardOn (p : Port) (bytes : List Byte) (case_ : Scan) (s : State) : Result :=
  let ps := (s.port p).receive bytes s.now
  ifDue (!s.held) s (s.setPort p (if scan ps.line == case_ then ps.discardFrame else ps))

/-- CRC_DISCARD (R177): all bytes of the frame are there and the CRC differs. -/
def execCrcDiscard (p : Port) (bytes : List Byte) (s : State) : Result := discardOn p bytes .badCrc s

/-- LENGTH_DISCARD (R177): the length lies outside 3 to 1,020. -/
def execLengthDiscard (p : Port) (bytes : List Byte) (s : State) : Result := discardOn p bytes .badLength s

/-- The arrivals and discards that the bytes on a line come to, one after another, until the port is hunting or assembling a
frame that is not complete (R176, R177). Each takes a byte off the line at least, so that as many as the line has bytes are
enough. -/
def settleLine (p : Port) : Nat → State → State
  | 0, s => s
  | n + 1, s =>
    match scan (s.port p).line with
    | .arrived f rest => settleLine p n (arrive p f rest s)
    | .badLength => settleLine p n (s.setPort p (s.port p).discardFrame)
    | .badCrc => settleLine p n (s.setPort p (s.port p).discardFrame)
    | .partialFrame => s

/-- FRAMING_ERROR (R177): after `bytes` a byte arrives without its stop bit. The frames that the bytes before it end are
settled first (log entry 4); it then discards the frame being assembled. While hunting it is passed over and counts
nothing. -/
def execFramingError (p : Port) (bytes : List Byte) (s : State) : Result :=
  let got := s.setPort p ((s.port p).receive bytes s.now)
  let t := settleLine p (got.port p).line.length got
  ifDue (!s.held) s (t.setPort p (t.port p).cutFrame)

/-- The gap of a frame being assembled has expired (R177). -/
def gapDue (p : Port) (s : State) : Bool := !s.held && (s.port p).gap s.now

/-- GAP_EXPIRY (R177). -/
def execGapExpiry (p : Port) (s : State) : Result := ifDue (gapDue p s) s (s.setPort p (s.port p).cutFrame)

/-! ### Sending (R184) -/

/-- FRAME_SENT (R184): the oldest frame leaves the queue; when it is the ACK of a RESTART, the warm restart becomes due
(R194). -/
def execFrameSent (p : Port) (s : State) : Result :=
  match (s.port p).tx with
  | f :: rest =>
    if s.held then .next s
    else .next { s.setPort p { s.port p with tx := rest } with restartDue := s.restartDue || f.restart }
  | [] => .next s

/-! ### Requests of the link -/

/-- REQUEST_OF_NO_KIND (R181, R182): no layout to be measured against, refused KIND. -/
def execRequestOfNoKind (p : Port) (s : State) : Result :=
  match takeFrame p (fun f => !Kind.requests.contains f.kind) s with
  | none => .next s
  | some (f, s1) => .next (s1.answer p (refuseFrame f .kind s1.log.oldest) false)

/-- TIME: race time, course time, quality and current source (R145, R201). -/
def timeResults (s : State) : List Byte :=
  raceTimeField s.raceNow? ++ le 6 s.now ++ le 1 s.quality.code ++ le 1 s.clock.current.code

def execTime (p : Port) (s : State) : Result :=
  serve p (ofKind Kind.time) Layout.empty (fun _ s => .ok (s, timeResults s)) s

/-- The ten characters of the part identity (R186, R201). -/
def identity : List Byte := [0x46#8, 0x75#8, 0x6C#8, 0x63#8, 0x6F#8, 0x72#8, 0x20#8, 0x53#8, 0x43#8, 0x34#8]

/-- Leaf 0: part identity, revision 1, 3 leaves (R186). -/
def leafIdentity : List Byte := identity ++ le 1 1 ++ le 1 3

/-- Leaf 1: the capacities (R186, R201). -/
def leafCapacities : List Byte :=
  le 2 maxBib ++ le 2 aliasCap ++ le 1 32 ++ le 1 8 ++ le 2 crossingCap ++ le 1 holdCap ++ le 1 releaseCap
    ++ le 2 feedQueueCap ++ le 2 logCap ++ le 1 leadCap ++ le 1 featCap ++ le 2 flowCap ++ le 1 8 ++ le 1 32 ++ le 1 64
    ++ le 1 16 ++ le 1 bufferCap ++ le 2 1020

/-- Leaf 2: the asking port's letter and role and the line rate (R186). -/
def leafPort (p : Port) (rate : LineRate) : List Byte := le 1 p.code ++ le 1 p.role.code ++ le 4 rate.baud

/-- DESCRIBE (R186): any leaf but 0, 1 and 2 is refused RANGE. -/
def describe (p : Port) (leaf : Nat) (s : State) : Reply :=
  match leaf with
  | 0 => .ok (s, le 1 0 ++ leafIdentity)
  | 1 => .ok (s, le 1 1 ++ leafCapacities)
  | 2 => .ok (s, le 1 2 ++ leafPort p s.lineRate)
  | _ => .error .range

def execDescribe (p : Port) (s : State) : Result :=
  serve p (ofKind Kind.describe) (Layout.one 1) (describe p) s

end Sys2Proof.Machine
end

