-- ==== Sys2Proof/Machine/Pages.lean ====
section
/-! DEFINITION. The board (06): PAGE and the rotation, BOARD SET, ROTATION SET, PATTERN SET, the quiet expiry. -/

namespace Sys2Proof.Machine

/-! ### Lanes on a page (R110, R111) -/

/-- One row of a page (R110, R201). -/
def rowBytes (post : BoardPosting) : List Byte :=
  le 4 post.seq ++ le 2 post.bib ++ le 1 post.pass ++ le 1 post.division ++ le 2 post.nameTag ++ le 4 post.chipSeconds
    ++ le 4 post.pace ++ le 2 post.place ++ le 1 (post.flags.byte post.amended) ++ le 1 0

/-- The lane after a page of up to `rows` rows: shows raised by one, and postings at the dwell or above removed (R110, R111). -/
def laneAfter (rows dwell : Nat) (lane : List BoardPosting) : List BoardPosting :=
  ((lane.take rows).map (fun b => { b with shows := b.shows + 1 })).filter (fun b => decide (b.shows < dwell))
    ++ lane.drop rows

/-- Row count and rows (R201). -/
def rowsOf (rows : Nat) (lane : List BoardPosting) : List Byte :=
  le 1 (lane.take rows).length ++ (lane.take rows).flatMap rowBytes

/-! ### The rotation (R114-R116) -/

/-- A slot is eligible when its kind is CLOCK or the lane of its kind holds a posting (R114). -/
def Board.eligible (b : Board) (slot : Nat) : Bool :=
  match (b.rotation[slot]?).map Slot.kind with
  | some .clock => true
  | some .leaders => !b.lead.isEmpty
  | some .featured => !b.feat.isEmpty
  | some .flow => !b.flow.isEmpty
  | none => false

/-- The slots after the current one in list order, ending with the current one itself (R114). -/
def Board.slotsAfter (b : Board) : List Nat :=
  (List.range b.rotation.length).map (fun i => (b.slot + 1 + i) % b.rotation.length)

/-- To advance (R114): the first eligible slot becomes current; without one the current slot stays; the page count is 0. -/
def Board.advance (b : Board) : Board :=
  { b with slot := (b.slotsAfter.find? b.eligible).getD b.slot, pageCount := 0 }

/-- The clock fields of a CLOCK page (R113). -/
def clockPage (dim : Bool) (s : State) : List Byte :=
  le 1 SlotKind.clock.code ++ le 1 (yesNo dim) ++ raceTimeField s.raceNow? ++ le 1 s.quality.code
    ++ le 1 s.clock.current.code

/-- The page of a slot kind: its content and the board's lanes and banner after it (R110-R113). -/
def composeSlot (kind : SlotKind) (s : State) (b : Board) : Board × List Byte :=
  let rows := b.settings.rows
  match kind with
  | .leaders =>
    ({ b with lead := laneAfter rows b.settings.dwellLead b.lead },
      le 1 kind.code ++ le 1 0 ++ rowsOf rows b.lead)
  | .featured =>
    ({ b with feat := laneAfter rows b.settings.dwellFeat b.feat },
      le 1 kind.code ++ le 1 0 ++ rowsOf rows b.feat)
  | .flow =>
    ({ b with flow := laneAfter rows b.settings.dwellFlow b.flow, banner := 0 },
      le 1 kind.code ++ le 1 0 ++ le 2 b.banner ++ rowsOf rows b.flow)
  | .clock => (b, clockPage false s)

/-- After a rotation page the page count is compared with the hold count (R116). -/
def Board.closePage (b : Board) (hold : Nat) : Board := if b.pageCount = hold then b.advance else b

/-- The page that the rotation gives, with its fallback (R115). -/
def rotationPage (s : State) : Board × List Byte :=
  let b := if s.board.eligible s.board.slot then s.board else s.board.advance
  match b.rotation[b.slot]?, b.eligible b.slot with
  | some slot, true =>
    let (c, bytes) := composeSlot slot.kind s b
    ({ c with pageCount := c.pageCount + 1 }.closePage slot.hold, bytes)
  | _, _ => (b, clockPage false s)

/-- The page composed at a PAGE request (R109, R119, R120). -/
def composePage (s : State) : Board × List Byte :=
  if s.board.pattern ≠ 0 then (s.board, le 1 patternPageCode ++ le 1 0 ++ le 1 s.board.pattern)
  else if s.board.lastOffer.isNone then (s.board, clockPage true s)
  else rotationPage s

/-- PAGE (R109). -/
def page (_ : Unit) (s : State) : Reply :=
  let (b, bytes) := composePage s
  .ok ({ s with board := b }, bytes)

def execPage (p : Port) (s : State) : Result := serve p (ofKind Kind.page) Layout.empty page s

/-! ### Settings -/

/-- The ranges of the board settings (R121). -/
def BoardOk (b : BoardSettings) : Bool :=
  let dwellOk (d : Nat) : Bool := decide (1 ≤ d) && decide (d ≤ 20)
  decide (4 ≤ b.rows) && decide (b.rows ≤ 12) && dwellOk b.dwellLead && dwellOk b.dwellFeat && dwellOk b.dwellFlow
    && decide (1 ≤ b.leadDepth) && decide (b.leadDepth ≤ 10) && decide (10 ≤ b.quietInterval)
    && decide (b.quietInterval ≤ 600)

def boardBytes (b : BoardSettings) : List Byte :=
  le 1 b.rows ++ le 1 b.dwellLead ++ le 1 b.dwellFeat ++ le 1 b.dwellFlow ++ le 1 b.leadDepth ++ le 1 0
    ++ le 2 b.quietInterval

/-- BOARD SET (R121). -/
def boardSet (b : BoardSettings) (s : State) : Reply :=
  if BoardOk b then .ok ({ s with board := { s.board with settings := b } }, boardBytes b) else .error .range

def execBoardSet (p : Port) (s : State) : Result := serve p (ofKind Kind.boardSet) Layout.boardSet boardSet s

/-- A slot as sent: a page kind of the rotation, a hold count of 1 or more (R117). -/
def slotOf (e : Nat × Nat) : Option Slot :=
  if e.2 = 0 then none else (SlotKind.ofCode? e.1).map (fun k => { kind := k, hold := e.2 })

def rotationBytes (r : List Slot) : List Byte :=
  le 1 r.length ++ le 1 0 ++ r.flatMap (fun e => le 1 e.kind.code ++ le 1 e.hold)

/-- ROTATION SET (R117). -/
def rotationSet (sent : List (Nat × Nat)) (s : State) : Reply :=
  if sent.length = 0 ∨ 8 < sent.length then .error .range
  else match Layout.allSome (sent.map slotOf) with
    | none => .error .range
    | some slots =>
      .ok ({ s with board := { s.board with rotation := slots, slot := 0, pageCount := 0 } }, rotationBytes slots)

def execRotationSet (p : Port) (s : State) : Result := serve p (ofKind Kind.rotationSet) Layout.rotationSet rotationSet s

/-- PATTERN SET (R120). -/
def patternSet (n : Nat) (s : State) : Reply :=
  if 7 < n then .error .range else .ok ({ s with board := { s.board with pattern := n } }, le 1 n)

def execPatternSet (p : Port) (s : State) : Result := serve p (ofKind Kind.patternSet) (Layout.one 1) patternSet s

/-! ### Quiet (R118) -/

/-- Course time has reached the quiet expiry of a LIVE board (R118, R121). -/
def quietDue (s : State) : Bool :=
  !s.held && s.board.lastOffer.any (fun t => decide (t + s.board.settings.quietInterval * 1000 ≤ s.now))

/-- QUIET_EXPIRY (R118). -/
def execQuietExpiry (s : State) : Result :=
  ifDue (quietDue s) s { s with board := { s.board with lastOffer := none } }

end Sys2Proof.Machine
end

