-- ==== Sys2Proof/Machine/Setup.lean ====
section
/-! DEFINITION. Setup, start-up and restart (11): SETUP STORE, RESTART, the warm restart and the cold reset of every block, the load of
the setup block, and a change of its stored content. -/

namespace Sys2Proof.Machine

/-! ### The setup block (R190, R192) -/

/-- The working settings as they stand (R190). -/
def workingSettings (s : State) : Settings :=
  { startTarget := s.clock.startTarget, failSafe := s.clock.failSafe, integrityOn := s.dir.integrityOn,
    point := s.engine.point, holdTimeout := s.hold.timeout, board := s.board.settings, rotation := s.board.rotation }

/-- The block passes its check (R190; log entry 5). -/
def SetupBlock.passes (b : SetupBlock) : Bool := decide (b.codedFor = some b.items)

/-- The take of an accepted SETUP STORE: the copy is made and the write begins (R192). -/
def beginStore (_ : Unit) (s : State) : Reply :=
  .ok ({ s with setup := { s.setup with writing := some { copy := workingSettings s, began := s.now } } }, [])

/-- SETUP STORE (R192): the request stays in work on its port until the write has ended (R179). -/
def execSetupStore (p : Port) (s : State) : Result :=
  match takeFrame p (ofKind Kind.setupStore) s with
  | none => .next s
  | some (f, s1) =>
    match checked p f Layout.empty beginStore s1 with
    | .error r => .next (answered p f s1 (.error r))
    | .ok (t, _) => .next (t.setPort p { t.port p with inWork := some f })

/-- SETUP_WRITE_END (R192): the block holds the copy and passes its check, and the ACK is placed on port C. -/
def execSetupWriteEnd (s : State) : Result :=
  match s.setup.writing, (s.port .c).inWork with
  | some w, some f =>
    let t := { s with setup := { block := { items := w.copy, codedFor := some w.copy }, writing := none } }
    let t := t.setPort .c { t.port .c with inWork := none }
    ifDue (!s.held) s (t.answer .c (ackFrame f []) false)
  | _, _ => .next s

/-- A reset taken during the write cuts it: the block is left failing its check (R192). -/
def SetupStore.cut (x : SetupStore) : SetupStore :=
  match x.writing with
  | some _ => { block := { x.block with codedFor := none }, writing := none }
  | none => x

/-- SETUP_BLOCK_CHANGE (R190): the stored content changes, the check code stays. -/
def execSetupBlockChange (content : Settings) (s : State) : Result :=
  .next { s with setup := { s.setup with block := { s.setup.block with items := content } } }

/-! ### RESTART (R194) -/

/-- RESTART (R194): the ACK is placed, and its last byte makes the warm restart due. -/
def execRestart (p : Port) (s : State) : Result :=
  match takeFrame p (ofKind Kind.restart) s with
  | none => .next s
  | some (f, s1) =>
    match checked p f Layout.empty (fun _ s => .ok (s, [])) s1 with
    | .error r => .next (answered p f s1 (.error r))
    | .ok (t, results) => .next (t.answer p (ackFrame f results) true)

/-! ### The warm restart (R196) -/

/-- A port at warm restart (R187). -/
def PortState.restart (ps : PortState) : PortState := { ps with line := [], buffer := [], inWork := none, tx := [] }

def Ports.restart (x : Ports) : Ports := { a := x.a.restart, b := x.b.restart, c := x.c.restart, d := x.d.restart }

/-- A feed intake at warm restart (R36, R38). -/
def FeedState.restart (fs : FeedState) : FeedState :=
  { link := .silent, lastFrame := none, mat := .armed, queue := [], counts := fs.counts.add fs.queue.length .lost }

/-- The crossing engine at warm restart (R67). -/
def Engine.restart (e : Engine) (now : Nat) : Engine :=
  { e with crossings := e.crossings.map (fun c => { c with deadline := now + e.point.settleWindow }), nextTurn := .feedA }

/-- The board at warm restart (R126). -/
def Board.restart (b : Board) : Board :=
  { b with lead := [], feat := [], flow := [], banner := 0, lastOffer := none, pattern := 0, slot := 0, pageCount := 0 }

/-- The entry a released read returns as (R85). -/
def ReleasedRead.entry (r : ReleasedRead) (now : Nat) : HoldEntry :=
  { chip := r.chip, reason := r.reason, feed := r.feed, time := r.time, quality := r.quality, count := r.count,
    enteredAt := now, releasing := true }

/-- A returned read merged into the entry of its chip code (R85). -/
def HoldEntry.rejoin (e : HoldEntry) (r : ReleasedRead) : HoldEntry :=
  { e with time := min e.time r.time, quality := e.quality.worse r.quality, count := satAdd 255 r.count e.count,
           releasing := true }

/-- One read of the release queue returned to the list: `returned` holds those already placed ahead of the entries kept
(R85). -/
def returnRead (x : List HoldEntry × State) (r : ReleasedRead) : List HoldEntry × State :=
  let (returned, s) := x
  let merge (e : HoldEntry) : HoldEntry := if e.chip = r.chip then e.rejoin r else e
  if (returned ++ s.hold.list).any (fun e => e.chip == r.chip) then
    (returned.map merge, { s with hold := { s.hold with list := s.hold.list.map merge } })
  else if (returned ++ s.hold.list).length < holdCap then (returned ++ [r.entry s.now], s)
  else (returned, discardHold r.feed r.chip s)

/-- The hold unit at warm restart (R85). -/
def restartHold (s : State) : State :=
  let kept := s.hold.list.map (fun e => { e with enteredAt := s.now })
  let (returned, t) :=
    s.hold.release.foldl returnRead ([], { s with hold := { s.hold with list := kept, release := [] } })
  { t with hold := { t.hold with list := returned ++ t.hold.list } }

/-- The warm restart of every block (R196); the ports first, so that the notice of R85 is placed after they are emptied. -/
def warmRestart (s : State) : State :=
  restartHold
    { s with
      ports := s.ports.restart
      feeds := { a := s.feeds.a.restart, b := s.feeds.b.restart }
      engine := s.engine.restart s.now
      board := s.board.restart
      faults := { s.faults with warm := true }
      setup := s.setup.cut }

/-- WARM_RESTART: at the end of a pulse of 1 to 100 ms (R193), or when the restart of an accepted RESTART is due (R194). A
pulse's restart empties port C's queue and with it the mark of a RESTART not yet sent; one already due stays due. -/
def execWarmRestart (cause : RestartCause) (s : State) : Result :=
  match cause with
  | .pulse => ifDue (!s.held) s (warmRestart s)
  | .request => ifDue (!s.held && s.restartDue) s { warmRestart s with restartDue := false }

/-! ### The cold reset (R191, R193, R195) -/

/-- COLD_RESET (R195, R193): every block takes its initial state, a write in progress is cut, the straps are read (R189), and the
part is held until RESET_RISING_EDGE: the reset input rises, or a power-up completes. The model's queue and counter are no
state of the part. -/
def execColdReset (strap1 strap0 : Bool) (s : State) : Result :=
  .next { State.cold (LineRate.ofStraps strap1 strap0) s.setup.cut.block with pending := s.pending, choices := s.choices }

/-- The working settings given by the load (R191). -/
def State.withSettings (s : State) (x : Settings) : State :=
  { s with
    clock := { s.clock with startTarget := x.startTarget, failSafe := x.failSafe, requested := some x.startTarget.source }
    dir := { s.dir with integrityOn := x.integrityOn }
    engine := { s.engine with point := x.point }
    hold := { s.hold with timeout := x.holdTimeout }
    board := { s.board with settings := x.board, rotation := x.rotation } }

/-- The load of the setup block: its values, or every default and the fault SETUP (R191, R146). -/
def loadSetup (s : State) : State :=
  if s.setup.block.passes then s.withSettings s.setup.block.items
  else raiseFault .setup 0 (s.withSettings defaultSettings)

/-- RESET_RISING_EDGE (R193): the reset input rises or a power-up completes (the row of opcode_table.json), the part is
released from cold reset and the load runs. -/
def execResetRisingEdge (s : State) : Result := ifDue s.held s (loadSetup { s with held := false })

end Sys2Proof.Machine
end

