-- ==== Sys2Proof/Machine/Splits.lean ====
section
/-! DEFINITION. SPLITS READ (05 R98-R100). -/

namespace Sys2Proof.Machine

/-- One entry of the answer (R201, R199): the fields a kind has not are written as absent. -/
def entryBytes (e : LogEntry) : List Byte :=
  let figure (get : Figures → Nat) : List Byte := leOpt 4 (e.figures.map get)
  le 4 e.seq ++ le 2 e.bib ++ le 1 e.kind.code ++ le 1 ((e.figures.map Figures.pass).getD 0) ++ figure Figures.time
    ++ figure Figures.gunSplit ++ figure Figures.chipSplit ++ figure Figures.pace ++ le 2 (e.place.getD 0)
    ++ le 1 (e.flags.byte false) ++ le 1 0

/-- The entries that an answer carries: up to 16 from the start sequence on (R98). -/
def SplitLog.carried (l : SplitLog) (start : Nat) : List LogEntry := (l.entries.drop (start - l.oldest)).take 16

/-- SPLITS READ (R98, R99). -/
def splitsRead (start : Nat) (s : State) : Reply :=
  if start = 0 ∨ s.log.newest + 1 < start then .error .range
  else if start < s.log.oldest then .error .gone
  else
    let carried := s.log.carried start
    .ok (s, le 4 s.log.oldest ++ le 4 s.log.newest ++ le 1 carried.length ++ le 1 0 ++ carried.flatMap entryBytes)

def execSplitsRead (p : Port) (s : State) : Result := serve p (ofKind Kind.splitsRead) (Layout.one 4) splitsRead s

end Sys2Proof.Machine
end

