-- ==== Sys2Proof/Machine/Status.lean ====
section
/-! DEFINITION. Faults, integrity and status (09): FAULT READ, FAULT CLEAR, INTEGRITY SET, STATUS READ. -/

namespace Sys2Proof.Machine

/-! ### FAULT READ (R170) -/

/-- One item of the fault set (R201). -/
def faultItemBytes (i : FaultItem) : List Byte :=
  le 1 i.count ++ le 1 (yesNo i.pending) ++ leOpt 6 (i.first.map Prod.fst) ++ le 4 ((i.first.map Prod.snd).getD 0)

/-- The kind of the fault record, FF when it is empty (R197). -/
def heldKindCode (u : FaultUnit) : Nat := (u.record.map (fun r => r.kind.code)).getD 0xFF

/-- The results of FAULT READ (R170, R201). While the integrity record is empty its further failures are written as 0, for
which R199 states no value: the model's choice (log entry 27). -/
def faultReadResults (s : State) : List Byte :=
  let u := s.faults
  le 1 (heldKindCode u) ++ leOpt 6 (u.record.map FaultRecord.time) ++ le 4 ((u.record.map FaultRecord.detail).getD 0)
    ++ le 1 (yesNo u.integrity.isSome) ++ le 2 ((u.integrity.map IntegrityRecord.bib).getD 0)
    ++ leOpt 6 (u.integrity.map IntegrityRecord.time) ++ le 1 ((u.integrity.map IntegrityRecord.further).getD 0)
    ++ faultKinds.flatMap (fun k => faultItemBytes (u.set.get k)) ++ le 1 (yesNo s.dir.integrityOn)

def execFaultRead (p : Port) (s : State) : Result :=
  serve p (ofKind Kind.faultRead) Layout.empty (fun _ s => .ok (s, faultReadResults s)) s

/-! ### FAULT CLEAR (R165, R168) -/

/-- The class byte of a FAULT CLEAR frame names the class integrity (R197). -/
def namesIntegrity (f : Frame) : Bool := u8 0 f.payload == 1

/-- The results of FAULT CLEAR (R201). -/
def clearResults (cls : Nat) (u : FaultUnit) : List Byte :=
  le 1 cls ++ le 1 (heldKindCode u) ++ le 1 u.set.pendingByte ++ le 1 (yesNo u.integrity.isSome)

/-- The fault record emptied, and the pending kind of highest priority captured (R165). -/
def releaseRecord (s : State) : State :=
  let u := s.faults
  match u.set.firstPending with
  | none => { s with faults := { u with record := none } }
  | some k =>
    let item := u.set.get k
    capture (u.set.put k { item with pending := false })
      { kind := k, time := (item.first.map Prod.fst).getD 0, detail := (item.first.map Prod.snd).getD 0 } s

/-- An ordinary FAULT CLEAR names the held kind, or is refused STATE (R165). -/
def clearOrdinary (code : Nat) (s : State) : Reply :=
  match FaultKind.ofCode? code with
  | none => .error .range
  | some k =>
    if s.faults.record.any (fun r => decide (r.kind = k)) then
      let t := releaseRecord s
      .ok (t, clearResults 0 t.faults)
    else .error .state

/-- An integrity FAULT CLEAR names the bib held, or is refused STATE (R168). -/
def clearIntegrity (bib : Nat) (s : State) : Reply :=
  if !bibOk bib then .error .range
  else if s.faults.integrity.any (fun r => decide (r.bib = bib)) then
    let t := { s with faults := { s.faults with integrity := none } }
    .ok (t, clearResults 1 t.faults)
  else .error .state

/-- FAULT CLEAR by its class; a class that is neither is refused RANGE (R165). -/
def faultClear (c : Layout.Clear) (s : State) : Reply :=
  if c.cls = 0 then clearOrdinary c.kind s
  else if c.cls = 1 then clearIntegrity c.bib s
  else .error .range

/-- FAULT_CLEAR_ORDINARY: a FAULT CLEAR whose class is not integrity (log entry 21). -/
def execFaultClearOrdinary (p : Port) (s : State) : Result :=
  serve p (fun f => f.kind == Kind.faultClear && !namesIntegrity f) Layout.faultClear faultClear s

/-- FAULT_CLEAR_INTEGRITY: a FAULT CLEAR of class integrity. -/
def execFaultClearIntegrity (p : Port) (s : State) : Result :=
  serve p (fun f => f.kind == Kind.faultClear && namesIntegrity f) Layout.faultClear faultClear s

/-! ### INTEGRITY SET (R169) -/

def integritySet (code : Nat) (s : State) : Reply :=
  match onOff? code with
  | none => .error .range
  | some on => .ok ({ s with dir := { s.dir with integrityOn := on } }, le 1 (yesNo on))

def execIntegritySet (p : Port) (s : State) : Result := serve p (ofKind Kind.integritySet) (Layout.one 1) integritySet s

/-! ### STATUS READ (R171) -/

/-- The twelve counts in the order of the table of 02 section 2.7 (R201). -/
def countBytes (c : OutcomeCounts) : List Byte :=
  le 4 c.queued ++ le 4 c.opened ++ le 4 c.merged ++ le 4 c.held ++ le 4 c.stray ++ le 4 c.excess ++ le 4 c.future
    ++ le 4 c.beforeGun ++ le 4 c.withdrawn ++ le 4 c.barred ++ le 4 c.timedOut ++ le 4 c.lost

def feedBytes (f : FeedState) : List Byte :=
  le 1 f.link.code ++ le 1 f.mat.code ++ le 2 f.queue.length ++ countBytes f.counts

/-- State, count and miss count: the count of a source that is not STARTING, and the miss count of one that is not
QUALIFIED, are written as 0 (R199; log entry 23). -/
def refBytes (x : RefState) : List Byte :=
  le 1 x.state.code ++ le 1 (if x.state = .starting then x.count else 0)
    ++ le 1 (if x.state = .qualified then x.misses else 0)

/-- The lead in two bytes, two's complement (R199). -/
def leadBytes (lead : Int) : List Byte := le 2 (BitVec.ofInt 16 lead).toNat

def clockBytes (c : Timebase) : List Byte :=
  le 1 (yesNo c.epoch.isSome) ++ leOpt 6 c.epoch ++ le 6 c.courseTime ++ le 1 c.current.code
    ++ le 1 c.current.quality.code ++ le 1 (requestedCode c.requested) ++ refBytes c.sync ++ refBytes c.beacon
    ++ le 1 c.xo.state.code ++ le 2 (if c.xo.state = .starting then c.xo.count else 0) ++ leadBytes c.lead
    ++ le 1 (yesNo c.lock) ++ le 1 (yesNo c.clockFail) ++ le 1 (yesNo c.failSafe)

def boardStatus (b : Board) : List Byte :=
  le 1 b.lead.length ++ le 1 b.feat.length ++ le 2 b.flow.length ++ le 2 b.banner ++ le 1 (yesNo b.lastOffer.isSome)
    ++ le 1 b.pattern ++ le 1 b.slot ++ le 1 b.pageCount

/-- The whole part as it stands when the request is taken (R171, R201). -/
def statusResults (s : State) : List Byte :=
  feedBytes s.feeds.a ++ feedBytes s.feeds.b
    ++ le 4 s.ports.a.discards ++ le 4 s.ports.b.discards ++ le 4 s.ports.c.discards ++ le 4 s.ports.d.discards
    ++ le 2 s.engine.crossings.length ++ le 1 s.hold.list.length ++ le 1 (yesNo s.hold.holdOver)
    ++ le 1 s.hold.release.length ++ le 4 s.log.oldest ++ le 4 s.log.newest ++ boardStatus s.board
    ++ clockBytes s.clock ++ le 1 (yesNo s.faults.warm) ++ le 1 (yesNo s.dir.integrityOn)
    ++ le 1 (heldKindCode s.faults) ++ le 1 s.faults.set.pendingByte ++ le 1 (yesNo s.faults.integrity.isSome)

def execStatusRead (p : Port) (s : State) : Result :=
  serve p (ofKind Kind.statusRead) Layout.empty (fun _ s => .ok (s, statusResults s)) s

end Sys2Proof.Machine
end

