-- ==== Sys2Proof/Machine/Idle.lean ====
section
/-! DEFINITION. What the part does of itself: the events that are due now, and which of them is taken first (log entry 3). -/

namespace Sys2Proof.Machine

/-- The row of the request that a frame makes (R197; log entry 21 for the kinds with two rows). -/
def requestOf (p : Port) (f : Frame) : Instr :=
  match f.kind.toNat with
  | 0x10 => .report p
  | 0x11 => .matState p
  | 0x12 => .time p
  | 0x13 => .describe p
  | 0x14 => .page p
  | 0x20 => .runnerLoad p
  | 0x21 => .runnerRead p
  | 0x22 => .aliasSet p
  | 0x23 => .aliasClear p
  | 0x24 => .waveStart p
  | 0x25 => .waveSet p
  | 0x26 => .pointSet p
  | 0x30 => .holdsRead p
  | 0x31 => if namesReject f then .holdResolveReject p else .holdResolveAdmit p
  | 0x32 => .holdTimeoutSet p
  | 0x33 => .splitsRead p
  | 0x38 => .boardSet p
  | 0x39 => .rotationSet p
  | 0x3A => .patternSet p
  | 0x40 => .gunSet p
  | 0x41 => .timeBeacon p
  | 0x42 => .clockSelect p
  | 0x43 => .clockLock p
  | 0x44 => .clockFailClear p
  | 0x45 => .clockSetup p
  | 0x50 => .withdraw p
  | 0x51 => .reinstate p
  | 0x52 => .amend p
  | 0x53 => .crossingEnter p
  | 0x60 => .faultRead p
  | 0x61 => if namesIntegrity f then .faultClearIntegrity p else .faultClearOrdinary p
  | 0x62 => .integritySet p
  | 0x63 => .statusRead p
  | 0x70 => .setupStore p
  | 0x71 => .restart p
  | _ => .requestOfNoKind p

/-- A command when its condition holds. -/
def dueIf (due : Bool) (c : Instr) : List Instr := if due then [c] else []

/-- What the bytes already received on a line amount to (R176, R177). -/
def lineDue (p : Port) (s : State) : List Instr :=
  match scan (s.port p).line with
  | .arrived _ _ => [.frameArrival p []]
  | .badCrc => [.crcDiscard p []]
  | .badLength => [.lengthDiscard p []]
  | .partialFrame => dueIf (gapDue p s) (.gapExpiry p)

/-- The request a port takes next (R179). -/
def requestDue (p : Port) (s : State) : List Instr :=
  match takeFrame p (fun _ => true) s with
  | some (f, _) => [requestOf p f]
  | none => []

/-- The write of the setup block ends at the latest 40 ms after the take (R192; log entry 17). -/
def writeDue (s : State) : Bool :=
  s.setup.writing.any (fun w => decide (w.began + setupWriteBound ≤ s.now)) && (s.port .c).inWork.isSome

/-- Every event that is due at the present course time. -/
def dueEvents (s : State) : List Instr :=
  if s.held then []
  else
    [Port.a, .b, .c, .d].flatMap (fun p => lineDue p s ++ requestDue p s)
      ++ dueIf (writeDue s) .setupWriteEnd ++ dueIf s.restartDue (.warmRestart .request)
      ++ dueIf (deferredDue s) .deferredFallback ++ dueIf (xoDue s) .xoQualify ++ dueIf (nextJudgement s).isSome .readJudgement
      ++ (s.engine.crossings.filter (fun c => (dueCrossing c.bib s).isSome)).map (fun c => .deadlineExpiry c.bib)
      ++ dueIf (silenceDue .a s) (.silenceExpiry .a) ++ dueIf (silenceDue .b s) (.silenceExpiry .b)
      ++ (s.hold.list.filter (fun e => (timedOutEntry e.chip s).isSome)).map (fun e => .holdTimeoutExpiry e.chip)
      ++ dueIf (moveDue s).isSome .releaseMove ++ dueIf (quietDue s) .quietExpiry
      ++ dueIf (missingDue .sync s) (.missingPeriod .sync) ++ dueIf (missingDue .beacon s) (.missingPeriod .beacon)
      ++ dueIf (secondDue s && s.clock.readyRequest.isSome) .switchCompletion ++ dueIf (slewDue s) .leadSlew

/-- The event taken next and the state it is taken in: the deferred fallback, which R144 takes at once; else the one that is
due, or, of several, one that a free value names, for which the counter of free values advances (log entry 3). -/
def nextDue (s : State) : Option (Instr × State) :=
  if deferredDue s then some (.deferredFallback, s)
  else match dueEvents s with
    | [] => none
    | [c] => some (c, s)
    | c :: d :: rest =>
      let events := c :: d :: rest
      some (events.getD (Config.dueOrder s.choices % events.length) c, { s with choices := s.choices + 1 })

end Sys2Proof.Machine
end

