-- ==== Sys2Proof/Machine/Dispatch.lean ====
section
/-! DEFINITION. One arm per command, each a direct call of its meaning. -/

namespace Sys2Proof.Machine

def exec (i : Instr) (s : State) : Host.Outcome State Fault Refusal :=
  match i with
  | .frameArrival p bytes => Sys2Proof.Machine.execFrameArrival p bytes s
  | .crcDiscard p bytes => Sys2Proof.Machine.execCrcDiscard p bytes s
  | .lengthDiscard p bytes => Sys2Proof.Machine.execLengthDiscard p bytes s
  | .framingError p bytes => Sys2Proof.Machine.execFramingError p bytes s
  | .gapExpiry p => Sys2Proof.Machine.execGapExpiry p s
  | .frameSent p => Sys2Proof.Machine.execFrameSent p s
  | .requestOfNoKind p => Sys2Proof.Machine.execRequestOfNoKind p s
  | .report p => Sys2Proof.Machine.execReport p s
  | .matState p => Sys2Proof.Machine.execMatState p s
  | .time p => Sys2Proof.Machine.execTime p s
  | .describe p => Sys2Proof.Machine.execDescribe p s
  | .page p => Sys2Proof.Machine.execPage p s
  | .runnerLoad p => Sys2Proof.Machine.execRunnerLoad p s
  | .runnerRead p => Sys2Proof.Machine.execRunnerRead p s
  | .aliasSet p => Sys2Proof.Machine.execAliasSet p s
  | .aliasClear p => Sys2Proof.Machine.execAliasClear p s
  | .waveStart p => Sys2Proof.Machine.execWaveStart p s
  | .waveSet p => Sys2Proof.Machine.execWaveSet p s
  | .pointSet p => Sys2Proof.Machine.execPointSet p s
  | .holdsRead p => Sys2Proof.Machine.execHoldsRead p s
  | .holdResolveAdmit p => Sys2Proof.Machine.execHoldResolveAdmit p s
  | .holdResolveReject p => Sys2Proof.Machine.execHoldResolveReject p s
  | .holdTimeoutSet p => Sys2Proof.Machine.execHoldTimeoutSet p s
  | .splitsRead p => Sys2Proof.Machine.execSplitsRead p s
  | .boardSet p => Sys2Proof.Machine.execBoardSet p s
  | .rotationSet p => Sys2Proof.Machine.execRotationSet p s
  | .patternSet p => Sys2Proof.Machine.execPatternSet p s
  | .gunSet p => Sys2Proof.Machine.execGunSet p s
  | .timeBeacon p => Sys2Proof.Machine.execTimeBeacon p s
  | .clockSelect p => Sys2Proof.Machine.execClockSelect p s
  | .clockLock p => Sys2Proof.Machine.execClockLock p s
  | .clockFailClear p => Sys2Proof.Machine.execClockFailClear p s
  | .clockSetup p => Sys2Proof.Machine.execClockSetup p s
  | .deferredFallback => Sys2Proof.Machine.execDeferredFallback s
  | .withdraw p => Sys2Proof.Machine.execWithdraw p s
  | .reinstate p => Sys2Proof.Machine.execReinstate p s
  | .amend p => Sys2Proof.Machine.execAmend p s
  | .crossingEnter p => Sys2Proof.Machine.execCrossingEnter p s
  | .faultRead p => Sys2Proof.Machine.execFaultRead p s
  | .faultClearOrdinary p => Sys2Proof.Machine.execFaultClearOrdinary p s
  | .faultClearIntegrity p => Sys2Proof.Machine.execFaultClearIntegrity p s
  | .integritySet p => Sys2Proof.Machine.execIntegritySet p s
  | .statusRead p => Sys2Proof.Machine.execStatusRead p s
  | .setupStore p => Sys2Proof.Machine.execSetupStore p s
  | .setupWriteEnd => Sys2Proof.Machine.execSetupWriteEnd s
  | .restart p => Sys2Proof.Machine.execRestart p s
  | .readJudgement => Sys2Proof.Machine.execReadJudgement s
  | .deadlineExpiry bib => Sys2Proof.Machine.execDeadlineExpiry bib s
  | .silenceExpiry feed => Sys2Proof.Machine.execSilenceExpiry feed s
  | .holdTimeoutExpiry chip => Sys2Proof.Machine.execHoldTimeoutExpiry chip s
  | .releaseMove => Sys2Proof.Machine.execReleaseMove s
  | .quietExpiry => Sys2Proof.Machine.execQuietExpiry s
  | .syncMark => Sys2Proof.Machine.execSyncMark s
  | .missingPeriod ref => Sys2Proof.Machine.execMissingPeriod ref s
  | .xoQualify => Sys2Proof.Machine.execXoQualify s
  | .xoGap => Sys2Proof.Machine.execXoGap s
  | .comparisonWindowEnd cycles => Sys2Proof.Machine.execComparisonWindowEnd cycles s
  | .switchCompletion => Sys2Proof.Machine.execSwitchCompletion s
  | .leadSlew => Sys2Proof.Machine.execLeadSlew s
  | .warmRestart cause => Sys2Proof.Machine.execWarmRestart cause s
  | .coldReset strap1 strap0 => Sys2Proof.Machine.execColdReset strap1 strap0 s
  | .recordUpset bib content => Sys2Proof.Machine.execRecordUpset bib content s
  | .setupBlockChange content => Sys2Proof.Machine.execSetupBlockChange content s
  | .resetRisingEdge => Sys2Proof.Machine.execResetRisingEdge s

end Sys2Proof.Machine
end

