-- ==== Sys2Proof/Machine/Step.lean ====
section
/-! DEFINITION. One step: the command at the front of the queue; with an empty queue, the event that is due, or a millisecond. -/

namespace Sys2Proof.Machine

/-- The step on an empty queue: an event that is due is taken; when none is, a millisecond of the counting oscillator passes
(log entry 3). -/
def idle (s : State) : Host.Outcome State Fault Refusal :=
  match nextDue s with
  | some (c, t) => exec c t
  | none => tick s

/-- One step of the part. -/
def step (s : State) : Host.Outcome State Fault Refusal :=
  match s.pending with
  | c :: rest => exec c { s with pending := rest }
  | [] => idle s

/-- The command a word spells put at the front of the queue; the table gives no row any bits, so the state is unchanged. -/
def State.withFetchWord (s : State) (nbits w : Nat) : State :=
  match decodeTableWord nbits w with
  | some c => { s with pending := c :: s.pending }
  | none => s

end Sys2Proof.Machine
end

