-- ==== Sys2Proof/Safety.lean ====
section
/-! DEFINITION. The words that statements about the part are written in: a port about to take a request, its answers, a frame
that fits its layout, and the invariants: what is true of the part at reset and stays true at every step. -/

namespace Sys2Proof.Machine

/-! ### A port and its request (10) -/

/-- Port `p` takes its next request now, and that request is `f`: it has no request in work, fewer than 4 answers wait, and
`f` is the oldest frame of its buffer, `rest` behind it (R178, R179). -/
abbrev State.Asks (s : State) (p : Port) (f : Frame) (rest : List Frame) : Prop :=
  s.held = false ∧ (s.port p).inWork = none ∧ (s.port p).answers < answerCap ∧ (s.port p).buffer = f :: rest

/-- The state once the port has taken its request from the buffer. -/
def State.taken (s : State) (p : Port) (rest : List Frame) : State := s.setPort p { s.port p with buffer := rest }

/-- The request is accepted: ACK with its results. -/
def State.ack (s : State) (p : Port) (f : Frame) (results : List Byte) : State := s.answer p (ackFrame f results) false

/-- The request is refused with one reason. -/
def State.refuse (s : State) (p : Port) (f : Frame) (r : Reason) : State :=
  s.answer p (refuseFrame f r s.log.oldest) false

/-- The content of a frame of a known kind fits the layout of its kind (R182, R200). -/
def Frame.fits (f : Frame) : Bool :=
  let pl := f.payload
  match f.kind.toNat with
  | 0x10 => (Layout.report pl).isSome
  | 0x11 => (Layout.one 1 pl).isSome
  | 0x12 => (Layout.empty pl).isSome
  | 0x13 => (Layout.one 1 pl).isSome
  | 0x14 => (Layout.empty pl).isSome
  | 0x20 => (Layout.runnerLoad pl).isSome
  | 0x21 => (Layout.one 2 pl).isSome
  | 0x22 => (Layout.aliasSet pl).isSome
  | 0x23 => (Layout.one 4 pl).isSome
  | 0x24 => (Layout.waveStart pl).isSome
  | 0x25 => (Layout.waveSet pl).isSome
  | 0x26 => (Layout.pointSet pl).isSome
  | 0x30 => (Layout.one 1 pl).isSome
  | 0x31 => (Layout.holdResolve pl).isSome
  | 0x32 => (Layout.one 2 pl).isSome
  | 0x33 => (Layout.one 4 pl).isSome
  | 0x38 => (Layout.boardSet pl).isSome
  | 0x39 => (Layout.rotationSet pl).isSome
  | 0x3A => (Layout.one 1 pl).isSome
  | 0x40 => (Layout.gunSet pl).isSome
  | 0x41 => (Layout.empty pl).isSome
  | 0x42 => (Layout.one 1 pl).isSome
  | 0x43 => (Layout.empty pl).isSome
  | 0x44 => (Layout.empty pl).isSome
  | 0x45 => (Layout.clockSetup pl).isSome
  | 0x50 => (Layout.one 2 pl).isSome
  | 0x51 => (Layout.one 2 pl).isSome
  | 0x52 => (Layout.amend pl).isSome
  | 0x53 => (Layout.crossingEnter pl).isSome
  | 0x60 => (Layout.empty pl).isSome
  | 0x61 => (Layout.faultClear pl).isSome
  | 0x62 => (Layout.one 1 pl).isSome
  | 0x63 => (Layout.empty pl).isSome
  | 0x70 => (Layout.empty pl).isSome
  | 0x71 => (Layout.empty pl).isSome
  | _ => false

/-- The request rows of a port (R197, R182). -/
def requestRows (p : Port) : List Instr :=
  [.requestOfNoKind p, .report p, .matState p, .time p, .describe p, .page p, .runnerLoad p, .runnerRead p, .aliasSet p,
    .aliasClear p, .waveStart p, .waveSet p, .pointSet p, .holdsRead p, .holdResolveAdmit p, .holdResolveReject p]
  ++ [.holdTimeoutSet p, .splitsRead p, .boardSet p, .rotationSet p, .patternSet p, .gunSet p, .timeBeacon p, .clockSelect p,
    .clockLock p, .clockFailClear p, .clockSetup p, .withdraw p, .reinstate p, .amend p, .crossingEnter p, .faultRead p]
  ++ [.faultClearOrdinary p, .faultClearIntegrity p, .integritySet p, .statusRead p, .setupStore p, .restart p]

/-! ### What every step keeps -/

/-- The bounds of a port: its buffer (R178), its answers (R179, R184), its notices, its discard count (R177). A request in
work leaves room for its answer. -/
abbrev PortState.Ok (noticeBound : Nat) (ps : PortState) : Prop :=
  ps.buffer.length ≤ bufferCap ∧ ps.answers ≤ answerCap ∧ (ps.inWork.isSome → ps.answers < answerCap)
    ∧ ps.notices ≤ noticeBound ∧ ps.discards ≤ maxCount

/-- Ports A, B and D place answers alone; port C also up to 15 notices (R184). -/
abbrev State.PortsOk (s : State) : Prop :=
  s.ports.a.Ok 0 ∧ s.ports.b.Ok 0 ∧ s.ports.c.Ok noticeCap ∧ s.ports.d.Ok 0

/-- The alias map: at most 256 entries, no chip code twice, alias codes to bibs or bars (R13). -/
abbrev Directory.AliasOk (d : Directory) : Prop :=
  d.aliasMap.length ≤ aliasCap ∧ (d.aliasMap.map Prod.fst).Nodup ∧ ∀ e ∈ d.aliasMap, maxBib < e.1 ∧ e.2 ≤ maxBib

/-- The tables of the directory are in canonical form, and no initial record is listed. -/
abbrev Directory.Canonical (d : Directory) : Prop :=
  Table.wf d.records ∧ Table.wf d.waves ∧ Table.wf d.places ∧ ∀ e ∈ d.records, e.2 ≠ RunnerRecord.initial

/-- At most 2,048 open crossings, at most one for a bib (R39). -/
abbrev Engine.Ok (e : Engine) : Prop := e.crossings.length ≤ crossingCap ∧ (e.crossings.map OpenCrossing.bib).Nodup

/-- At most 64 entries, no chip code twice (R68); at most 64 released reads (R79); the hold over flag is clear while the list is
empty (R72). -/
abbrev HoldUnit.Ok (h : HoldUnit) : Prop :=
  h.list.length ≤ holdCap ∧ (h.list.map HoldEntry.chip).Nodup ∧ h.release.length ≤ releaseCap
    ∧ (h.list = [] → h.holdOver = false)

/-- At most 8,192 entries, whose sequences rise by one up to the newest (R93, R94). -/
abbrev SplitLog.Ok (l : SplitLog) : Prop :=
  l.entries.length ≤ logCap ∧ l.entries.length ≤ l.newest
    ∧ l.entries.map LogEntry.seq = List.range' (l.newest + 1 - l.entries.length) l.entries.length

/-- The lanes within their capacities (R104), the banner count within its bound (R107). -/
abbrev Board.LanesOk (b : Board) : Prop :=
  b.lead.length ≤ leadCap ∧ b.feat.length ≤ featCap ∧ b.flow.length ≤ flowCap ∧ b.banner ≤ 65535

/-- A feed queue holds at most 512 reads (R28), and a link that is ACTIVE has had its last frame (R23). -/
abbrev FeedState.Ok (fs : FeedState) : Prop :=
  fs.queue.length ≤ feedQueueCap ∧ (fs.link = .active → fs.lastFrame.isSome)

/-- Every store of the part is within its capacity and in its form. -/
abbrev State.StoresOk (s : State) : Prop :=
  s.dir.Canonical ∧ s.dir.AliasOk ∧ s.engine.Ok ∧ s.hold.Ok ∧ s.log.Ok ∧ s.board.LanesOk ∧ s.feeds.a.Ok ∧ s.feeds.b.Ok

/-- An item of the fault set: its count is bounded, and while it is pending it has its first time and detail (R162). -/
abbrev FaultItem.Ok (i : FaultItem) : Prop := i.count ≤ 255 ∧ (i.pending = true → i.first.isSome)

/-- The fault unit (R162, R163): while the record is empty no kind is pending; the kind held is not pending, and the record
carries its first time and detail. -/
abbrev FaultUnit.Ok (u : FaultUnit) : Prop :=
  (∀ k ∈ faultKinds, (u.set.get k).Ok)
    ∧ (u.record = none → ∀ k ∈ faultKinds, (u.set.get k).pending = false)
    ∧ (∀ r ∈ u.record, (u.set.get r.kind).pending = false ∧ (u.set.get r.kind).first = some (r.time, r.detail))

/-- SYNC or BEACON (R130): the count is 0 to 15, 0 unless STARTING; the miss count 0 to 2, 0 unless QUALIFIED; the last mark
is not in the future. -/
abbrev RefState.Ok (now : Nat) (x : RefState) : Prop :=
  x.count ≤ 15 ∧ (x.state ≠ .starting → x.count = 0) ∧ x.misses ≤ 2 ∧ (x.state ≠ .qualified → x.misses = 0)
    ∧ ∀ t ∈ x.reference, t ≤ now

/-- The timebase: course time within its bound (R127), the epoch not in the future (R129), the sources' counts (R130), the lead's
range (R136), and no request for the current source (R138, R141). -/
abbrev Timebase.Ok (c : Timebase) : Prop :=
  c.courseTime ≤ maxCourseTime ∧ (∀ e ∈ c.epoch, e ≤ c.courseTime) ∧ c.sync.Ok c.courseTime ∧ c.beacon.Ok c.courseTime
    ∧ c.xo.count ≤ 65535 ∧ (-499 ≤ c.lead ∧ c.lead ≤ 500) ∧ c.requested ≠ some c.current

/-- While the part is held in cold reset the current source is the RC (R146, R193). -/
abbrev State.ClockOk (s : State) : Prop := s.clock.Ok ∧ (s.held = true → s.clock.current = .rc)

/-- A rotation list of 1 to 8 slots, each with a hold count of 1 to 255 (R114). -/
abbrev RotationOk (r : List Slot) : Prop := 1 ≤ r.length ∧ r.length ≤ 8 ∧ ∀ x ∈ r, 1 ≤ x.hold ∧ x.hold ≤ 255

/-- Settings in the ranges of R190. -/
abbrev SettingsInRange (x : Settings) : Prop :=
  PointOk x.point = true ∧ (1 ≤ x.holdTimeout ∧ x.holdTimeout ≤ 60) ∧ BoardOk x.board = true ∧ RotationOk x.rotation

/-- The current slot is one of the list's, and its page count has not reached its hold count (R114, R116). -/
abbrev Board.SlotOk (b : Board) : Prop := (b.rotation[b.slot]?).any (fun x => decide (b.pageCount < x.hold)) = true

/-- Every working setting is in its range, and so is what the setup block was last written with and what is being written; the
rotation stands at a slot of its list. While the part is held the rotation stands at its start (R125). -/
abbrev State.SettingsOk (s : State) : Prop :=
  SettingsInRange (workingSettings s) ∧ (∀ x ∈ s.setup.block.codedFor, SettingsInRange x)
    ∧ (∀ w ∈ s.setup.writing, SettingsInRange w.copy) ∧ s.board.SlotOk
    ∧ (s.held = true → s.board.slot = 0 ∧ s.board.pageCount = 0)

/-- While the race clock is UNSET no read waits anywhere and no crossing is open (R29, R43). -/
abbrev State.QuietBeforeGun (s : State) : Prop :=
  s.clock.epoch = none →
    s.feeds.a.queue = [] ∧ s.feeds.b.queue = [] ∧ s.hold.list = [] ∧ s.hold.release = [] ∧ s.engine.crossings = []

end Sys2Proof.Machine
end

