-- ==== Sys2Proof/Certificates/Slice0/Obligations.lean ====
section
/-! DEFINITION. The statements for the provers, as propositions. `s.Asks p f rest` says that port `p` takes `f` as its request
now; `s.taken p rest`, `.ack`, `.refuse` are in Sys2Proof/Safety.lean. A next state written with `with` says also that
everything else is as it was. -/

open Sys2Proof Sys2Proof.Machine

/-! ### The queue of commands, and the step on an empty queue -/

/-- A step with a command at the front of the queue runs that command on the state with the queue's rest. -/
def Obligations.StepRunsFrontCommand : Prop :=
  ∀ (s : State) (c : Instr) (rest : List Instr), s.pending = c :: rest → step s = exec c { s with pending := rest }

/-- On an empty queue the part takes an event that is due (the deferred fallback before any other: log entry 29), and one
millisecond of the counting oscillator passes only when none is due, `n` XO cycles in it (log entries 3 and 8; `n` is free);
while it is held in cold reset nothing happens (log entry 20), and course time has a last value (log entry 9). Each event
of the part is due exactly when its condition holds; the moments of LEAD_SLEW, SWITCH_COMPLETION, SETUP_WRITE_END and
XO_QUALIFY are log entries 11, 12, 17 and 8, that bytes on the line await their event is log entry 4, and that judgements
and expiries of deadlines await the gun is log entry 16. What comes from outside is never due (FRAME_SENT: log entry 18). -/
def Obligations.EmptyQueueStep : Prop :=
  (∀ s : State, s.pending = [] →
    (s.held = true → step s = .next s) ∧
    (s.held = false → s.clock.fallbackDue = true → step s = exec .deferredFallback s) ∧
    (dueEvents s ≠ [] → ∃ c ∈ dueEvents s,
      step s = exec c s ∨ step s = exec c { s with choices := s.choices + 1 }) ∧
    (s.held = false → dueEvents s = [] → s.now < maxCourseTime → ∃ n : Nat,
      step s = .next { s with
        choices := s.choices + 1
        clock := { s.clock with
          courseTime := s.now + 1
          oscMs := if s.clock.lead < 0 then s.clock.oscMs + 1 else (s.clock.oscMs + 1) % 1000
          xo := if s.clock.xo.state = .starting
            then { s.clock.xo with count := min 65535 (s.clock.xo.count + n) } else s.clock.xo } }) ∧
    (s.held = false → dueEvents s = [] → maxCourseTime ≤ s.now → step s = .fault .courseTimeEnds)) ∧
  (∀ s : State, s.held = true → dueEvents s = []) ∧
  (∀ s : State, s.held = false →
    let due (c : Instr) : Prop := c ∈ dueEvents s
    let secondWaits : Prop := s.now % 1000 = 0 ∧ s.clock.secondTaken ≠ s.now ∧
      ∃ r, s.clock.requested = some r ∧ s.clock.sourceState r = .qualified
    (∀ p bytes, due (.frameArrival p bytes) ↔ bytes = [] ∧ ∃ f rest, scan (s.port p).line = .arrived f rest) ∧
    (∀ p bytes, due (.crcDiscard p bytes) ↔ bytes = [] ∧ scan (s.port p).line = .badCrc) ∧
    (∀ p bytes, due (.lengthDiscard p bytes) ↔ bytes = [] ∧ scan (s.port p).line = .badLength) ∧
    (∀ p, due (.gapExpiry p) ↔
      (s.port p).line ≠ [] ∧ scan (s.port p).line = .partialFrame ∧ (s.port p).lastByteAt + 10 < s.now) ∧
    (∀ p, ∀ c ∈ requestRows p, due c ↔ ∃ f rest, s.Asks p f rest ∧ requestOf p f = c) ∧
    (due .readJudgement ↔ s.clock.epoch.isSome ∧ s.engine.crossings.length < 2048 ∧
      (s.feeds.a.queue ≠ [] ∨ s.feeds.b.queue ≠ [] ∨ s.hold.release ≠ [])) ∧
    (∀ bib, due (.deadlineExpiry bib) ↔
      s.clock.epoch.isSome ∧ ∃ c, s.engine.find? bib = some c ∧ c.deadline ≤ s.now) ∧
    (∀ x, due (.silenceExpiry x) ↔
      (s.feed x).link = .active ∧ ∃ t, (s.feed x).lastFrame = some t ∧ t + 5000 ≤ s.now) ∧
    (∀ chip, due (.holdTimeoutExpiry chip) ↔ ∃ e, s.hold.find? chip = some e ∧ e.releasing = false ∧
      e.enteredAt + s.hold.timeout * 60000 ≤ s.now) ∧
    (due .releaseMove ↔ s.hold.release.length < 64 ∧ ∃ e ∈ s.hold.list, e.releasing = true) ∧
    (due .quietExpiry ↔
      ∃ t, s.board.lastOffer = some t ∧ t + s.board.settings.quietInterval * 1000 ≤ s.now) ∧
    (∀ r, due (.missingPeriod r) ↔ (s.clock.ref r).watch ≤ s.now) ∧
    (due .xoQualify ↔ s.clock.xo.state = .starting ∧ 65535 ≤ s.clock.xo.count) ∧
    (due .switchCompletion ↔ secondWaits ∧ s.clock.fallbackDue = false) ∧
    (due .leadSlew ↔ (0 < s.clock.lead ∧ s.clock.oscMs = 999) ∨
      (s.clock.lead < 0 ∧ 1000 ≤ s.clock.oscMs ∧ ¬ secondWaits)) ∧
    (due .deferredFallback ↔ s.clock.fallbackDue = true) ∧
    (due .setupWriteEnd ↔ (s.port .c).inWork.isSome ∧ ∃ w, s.setup.writing = some w ∧ w.began + 40 ≤ s.now) ∧
    (∀ cause, due (.warmRestart cause) ↔ cause = .request ∧ s.restartDue = true) ∧
    (∀ p bytes, ¬ due (.framingError p bytes) ∧ ¬ due (.frameSent p)) ∧
    ¬ due .syncMark ∧ ¬ due .xoGap ∧ (∀ n, ¬ due (.comparisonWindowEnd n)) ∧ (∀ a b, ¬ due (.coldReset a b)) ∧
    ¬ due .resetRisingEdge ∧ (∀ bib x, ¬ due (.recordUpset bib x)) ∧ (∀ x, ¬ due (.setupBlockChange x)))

/-- Every command answers a next state in every state, with the queue as it was; only LEAD_SLEW can stop, and only where
course time would pass its last value (log entry 9). No command is refused by the model. -/
def Obligations.CommandsComplete : Prop :=
  ∀ (c : Instr) (s : State),
    ((∃ t, exec c s = .next t ∧ t.pending = s.pending) ∨
      (c = .leadSlew ∧ exec c s = .fault .courseTimeEnds ∧ maxCourseTime ≤ s.now))

/-- A command that is not due changes nothing (the model's choice: log entries 1 and 2): a request command that is not the one
its port takes now, an event whose condition does not hold (the conditions of bytes on a line: log entry 4; of the events
of the clock: 8, 11, 12 and 29; before the gun: 16), and, while the part is held in cold reset (log entry 20), every command
but COLD_RESET, RESET_RISING_EDGE and the two changes of stored content. -/
def Obligations.UndueCommandsChangeNothing : Prop :=
  ∀ s : State,
    (∀ c, s.held = true → (∀ a b, c ≠ .coldReset a b) → c ≠ .resetRisingEdge → (∀ bib x, c ≠ .recordUpset bib x) →
      (∀ x, c ≠ .setupBlockChange x) → exec c s = .next s) ∧
    (s.held = false → exec .resetRisingEdge s = .next s) ∧
    (∀ p, ∀ c ∈ requestRows p, (∀ f rest, s.Asks p f rest → requestOf p f ≠ c) → exec c s = .next s) ∧
    (∀ p, let got := scan (s.port p).line
      ((∀ f rest, got ≠ .arrived f rest) → exec (.frameArrival p []) s = .next s) ∧
      (got ≠ .badCrc → exec (.crcDiscard p []) s = .next s) ∧
      (got ≠ .badLength → exec (.lengthDiscard p []) s = .next s)) ∧
    (∀ p, (s.port p).line = [] → exec (.framingError p []) s = .next s) ∧
    (∀ p, (s.port p).line = [] ∨ scan (s.port p).line ≠ .partialFrame ∨ s.now ≤ (s.port p).lastByteAt + 10 →
      exec (.gapExpiry p) s = .next s) ∧
    (∀ p, (s.port p).tx = [] → exec (.frameSent p) s = .next s) ∧
    (2048 ≤ s.engine.crossings.length ∨ s.clock.epoch = none ∨
      (s.feeds.a.queue = [] ∧ s.feeds.b.queue = [] ∧ s.hold.release = []) → exec .readJudgement s = .next s) ∧
    (∀ bib, (∀ c, s.engine.find? bib = some c → s.now < c.deadline) ∨ s.clock.epoch = none →
      exec (.deadlineExpiry bib) s = .next s) ∧
    (∀ x, ((s.feed x).link = .silent ∨ ∀ t, (s.feed x).lastFrame = some t → s.now < t + 5000) →
      exec (.silenceExpiry x) s = .next s) ∧
    (∀ chip, (∀ e, s.hold.find? chip = some e →
        e.releasing = true ∨ s.now < e.enteredAt + s.hold.timeout * 60000) →
      exec (.holdTimeoutExpiry chip) s = .next s) ∧
    ((∀ e ∈ s.hold.list, e.releasing = false) ∨ 64 ≤ s.hold.release.length → exec .releaseMove s = .next s) ∧
    ((∀ t, s.board.lastOffer = some t → s.now < t + s.board.settings.quietInterval * 1000) →
      exec .quietExpiry s = .next s) ∧
    (∀ r, s.now < (s.clock.ref r).watch → exec (.missingPeriod r) s = .next s) ∧
    (s.clock.xo.state ≠ .starting ∨ s.clock.xo.count < 65535 → exec .xoQualify s = .next s) ∧
    (s.now % 1000 ≠ 0 ∨ s.clock.secondTaken = s.now ∨ s.clock.fallbackDue = true →
      exec .switchCompletion s = .next s) ∧
    (s.clock.lead = 0 ∨ (0 < s.clock.lead ∧ s.clock.oscMs ≠ 999) ∨ (s.clock.lead < 0 ∧ s.clock.oscMs < 1000) →
      exec .leadSlew s = .next s) ∧
    (∀ r, s.clock.lead < 0 → s.now % 1000 = 0 → s.clock.secondTaken ≠ s.now → s.clock.requested = some r →
      s.clock.sourceState r = .qualified → exec .leadSlew s = .next s) ∧
    (s.clock.fallbackDue = false → exec .deferredFallback s = .next s) ∧
    (s.setup.writing = none ∨ (s.port .c).inWork = none → exec .setupWriteEnd s = .next s) ∧
    (s.restartDue = false → exec (.warmRestart .request) s = .next s) ∧
    (∀ bib content, (bib = 0 ∨ 60000 < bib ∨ content.inRange = false) → exec (.recordUpset bib content) s = .next s)

/-! ### The course link (10) -/

/-- Every request that a port takes leaves its buffer, and is answered by exactly one frame placed last on the same port: a
REFUSE with nothing else changed, or an ACK; an accepted SETUP STORE stays in work instead. -/
def Obligations.RequestsAreAnswered : Prop :=
  ∀ (s : State) (p : Port) (f : Frame) (rest : List Frame), s.Asks p f rest →
    ∃ t, exec (requestOf p f) s = .next t ∧ (t.port p).buffer = rest ∧
      ((∃ r, t = (s.taken p rest).refuse p f r) ∨
       (∃ (u : State) (results : List Byte) (last : Bool), t = u.answer p (ackFrame f results) last ∧
        (u.port p).answers = (s.port p).answers) ∨
       (f.kind = Kind.setupStore ∧ (t.port p).inWork = some f ∧ (t.port p).tx = (s.port p).tx))

/-- The first refusal reasons in their order: KIND for a frame of no request kind, FORMAT for content that does not fit the
layout of its kind, and then ROLE, by the table of roles. -/
def Obligations.RefusalOrder : Prop :=
  ∀ (s : State) (p : Port) (f : Frame) (rest : List Frame), s.Asks p f rest →
    let refused (r : Reason) : Prop := exec (requestOf p f) s = .next ((s.taken p rest).refuse p f r)
    (f.kind ∉ Kind.requests → exec (.requestOfNoKind p) s = .next ((s.taken p rest).refuse p f .kind)) ∧
    (f.kind ∉ Kind.requests → refused .kind) ∧
    (f.kind ∈ Kind.requests → f.fits = false → refused .format) ∧
    (f.fits = true → p.role = .feed → f.kind ∉ [Kind.report, Kind.matState, Kind.time, Kind.describe] → refused .role) ∧
    (f.fits = true → p.role = .screen → f.kind ∉ [Kind.page, Kind.time, Kind.describe] → refused .role) ∧
    (f.fits = true → p.role = .control → f.kind ∈ [Kind.report, Kind.matState, Kind.page] → refused .role)

/-- Bytes received join the frame being assembled, or are hunted through for a start byte; a frame whose gap of more than 10 ms
has expired by then is discarded and counted first (in the same step: log entry 4). A frame whose bytes are all received
with a matching CRC arrives: it makes its feed's link ACTIVE, moves no deadline, and joins the buffer when that holds fewer
than 4 frames; else it is discarded and counted. The port hunts on in what follows. Bytes that complete no frame are
received all the same (log entry 4). -/
def Obligations.FrameArrives : Prop :=
  (∀ (ps : PortState) (bytes : List Byte) (now : Nat),
    let gap : Prop := ps.line ≠ [] ∧ scan ps.line = .partialFrame ∧ ps.lastByteAt + 10 < now
    ps.receive [] now = ps ∧
    (bytes ≠ [] → ¬ gap → ps.receive bytes now = { ps with line := hunt (ps.line ++ bytes), lastByteAt := now }) ∧
    (bytes ≠ [] → gap → ps.receive bytes now =
      { ps with line := hunt bytes, lastByteAt := now, discards := min 4294967295 (ps.discards + 1) })) ∧
  (∀ (s : State) (p : Port) (bytes : List Byte), s.held = false →
    let got := (s.port p).receive bytes s.now
    (∀ f rest, scan got.line = .arrived f rest →
      let u := match p.feed? with
        | some x => s.setFeed x { s.feed x with link := .active, lastFrame := some s.now }
        | none => s
      let heard := { got with line := hunt rest }
      exec (.frameArrival p bytes) s = .next (u.setPort p
        (if got.buffer.length < 4 then { heard with buffer := got.buffer ++ [f] }
         else { heard with discards := min 4294967295 (got.discards + 1) }))) ∧
    ((∀ f rest, scan got.line ≠ .arrived f rest) → exec (.frameArrival p bytes) s = .next (s.setPort p got)))

/-- A frame whose CRC differs or whose length is out of range is discarded and counted, and the port hunts again from the byte
after its start byte. A gap of more than 10 ms or a framing error discards and counts the frame being assembled, and
hunting goes on from the next byte; a framing error while hunting counts nothing. When the bytes before a framing error end
a frame, its arrival or discard comes first, and the error meets what that leaves: again a frame to end, a frame being
assembled, or hunting. `receive` is FrameArrives'; bytes that are not the case of their row are received all the same, and
that a framing error settles the bytes before it in its own step is log entry 4. -/
def Obligations.FramesAreDiscarded : Prop :=
  ∀ (s : State) (p : Port) (bytes : List Byte), s.held = false →
    let got := (s.port p).receive bytes s.now
    let counted := min 4294967295 (got.discards + 1)
    let again := s.setPort p { got with line := hunt (got.line.drop 1), discards := counted }
    let erredAfter (row : Instr) : Prop := ∀ t, exec row s = .next t →
      exec (.framingError p bytes) s = exec (.framingError p []) t
    (scan got.line = .badCrc → exec (.crcDiscard p bytes) s = .next again) ∧
    (scan got.line ≠ .badCrc → exec (.crcDiscard p bytes) s = .next (s.setPort p got)) ∧
    (scan got.line = .badLength → exec (.lengthDiscard p bytes) s = .next again) ∧
    (scan got.line ≠ .badLength → exec (.lengthDiscard p bytes) s = .next (s.setPort p got)) ∧
    (scan got.line = .partialFrame → got.line ≠ [] →
      exec (.framingError p bytes) s = .next (s.setPort p { got with line := [], discards := counted })) ∧
    (got.line = [] → exec (.framingError p bytes) s = .next (s.setPort p got)) ∧
    (∀ f rest, scan got.line = .arrived f rest → erredAfter (.frameArrival p bytes)) ∧
    (scan got.line = .badCrc → erredAfter (.crcDiscard p bytes)) ∧
    (scan got.line = .badLength → erredAfter (.lengthDiscard p bytes)) ∧
    ((s.port p).line ≠ [] → scan (s.port p).line = .partialFrame → (s.port p).lastByteAt + 10 < s.now →
      exec (.gapExpiry p) s = .next (s.setPort p { s.port p with
        line := [], discards := min 4294967295 ((s.port p).discards + 1) }))

/-- TIME changes nothing and is answered on every port with race time (all ones while UNSET), course time, quality and current
source. From 2^32 ms on the manual gives the field of race time no encoding (log entry 10). -/
def Obligations.TimeTaken : Prop :=
  ∀ (s : State) (p : Port) (f : Frame) (rest : List Frame), s.Asks p f rest → f.kind = Kind.time → f.payload = [] →
    let tail := le 6 s.now ++ (match s.clock.current with
      | .sync => [0#8, 0#8] | .beacon => [1#8, 1#8] | .xo => [2#8, 2#8] | .rc => [3#8, 3#8])
    (s.clock.epoch = none →
      exec (.time p) s = .next ((s.taken p rest).ack p f (List.replicate 4 0xFF#8 ++ tail))) ∧
    (∀ e, s.clock.epoch = some e → s.now - e < 4294967296 →
      exec (.time p) s = .next ((s.taken p rest).ack p f (le 4 (s.now - e) ++ tail))) ∧
    (∀ e, s.clock.epoch = some e → 4294967296 ≤ s.now - e →
      ∃ n, exec (.time p) s = .next ((s.taken p rest).ack p f (le 4 n ++ tail)))

/-- DESCRIBE changes nothing: leaf 0, 1 or 2 is answered with its content, any other leaf is refused RANGE. -/
def Obligations.DescribeTaken : Prop :=
  ∀ (s : State) (p : Port) (f : Frame) (rest : List Frame) (leaf : Byte), s.Asks p f rest → f.kind = Kind.describe →
    f.payload = [leaf] →
    let ack (results : List Byte) : Prop := exec (.describe p) s = .next ((s.taken p rest).ack p f (leaf :: results))
    (leaf = 0#8 → ack ([0x46#8, 0x75#8, 0x6C#8, 0x63#8, 0x6F#8, 0x72#8, 0x20#8, 0x53#8, 0x43#8, 0x34#8] ++ [1#8, 3#8])) ∧
    (leaf = 1#8 → ack (le 2 60000 ++ le 2 256 ++ le 1 32 ++ le 1 8 ++ le 2 2048 ++ le 1 64 ++ le 1 64 ++ le 2 512
      ++ le 2 8192 ++ le 1 16 ++ le 1 64 ++ le 2 256 ++ le 1 8 ++ le 1 32 ++ le 1 64 ++ le 1 16 ++ le 1 4 ++ le 2 1020)) ∧
    (leaf = 2#8 → ack ((match p with
        | .a => [0#8, 0#8] | .b => [1#8, 0#8] | .c => [2#8, 1#8] | .d => [3#8, 2#8])
      ++ le 4 (match s.lineRate with
        | .baud115200 => 115200 | .baud460800 => 460800 | .baud921600 => 921600 | .baud2000000 => 2000000))) ∧
    (leaf ≠ 0#8 → leaf ≠ 1#8 → leaf ≠ 2#8 → exec (.describe p) s = .next ((s.taken p rest).refuse p f .range))

/-! ### Feed intake (02) -/

/-- REPORT on a feed's port: checked whole in the order RANGE, STATE, FULL; accepted, its reads are appended in order with
their own times and quality, or stamped with race time now and the current source's quality, and counted QUEUED. -/
def Obligations.ReportTaken : Prop :=
  ∀ (s : State) (p : Port) (x : Feed) (f : Frame) (rest : List Frame) (r : Layout.Report), s.Asks p f rest →
    p.feed? = some x → f.kind = Kind.report → Layout.report f.payload = some r →
    let refused (why : Reason) : Prop := exec (.report p) s = .next ((s.taken p rest).refuse p f why)
    let outOfRange : Prop := r.reads.length = 0 ∨ 32 < r.reads.length ∨ (∃ e ∈ r.reads, e.1 = 0) ∨
      (r.clockless = false ∧ ((∃ e ∈ r.reads, 86400000 < e.2) ∨ 3 < r.quality))
    let fs := s.feed x
    (outOfRange → refused .range) ∧
    (¬ outOfRange → s.clock.epoch = none → refused .state) ∧
    (∀ e, s.clock.epoch = some e → r.clockless = true → 86400000 < s.now - e → refused .range) ∧
    (∀ e, s.clock.epoch = some e → ¬ outOfRange → (r.clockless = true → s.now - e ≤ 86400000) →
      (512 < fs.queue.length + r.reads.length → refused .full) ∧
      (∀ reads : List Read,
        (if r.clockless then reads = r.reads.map (fun y => ⟨y.1, s.now - e, match s.clock.current with
            | .sync => .exact | .beacon => .tracked | .xo => .holdover | .rc => .localRc⟩)
          else ∃ q, Quality.ofCode? r.quality = some q ∧ reads = r.reads.map (fun y => ⟨y.1, y.2, q⟩)) →
        fs.queue.length + r.reads.length ≤ 512 →
        exec (.report p) s = .next (((s.taken p rest).setFeed x { fs with
            queue := fs.queue ++ reads
            counts := { fs.counts with queued := min 4294967295 (fs.counts.queued + r.reads.length) } }).ack p f
          (le 1 r.reads.length ++ [0#8] ++ le 2 (512 - (fs.queue.length + r.reads.length))))))

/-- MAT STATE on a feed's port: a value other than DISARMED and ARMED is refused RANGE; else the mat takes it. When that ends
the feed's waiting, every open crossing whose partner is the feed has its deadline brought forward to the later of now and
opened at plus 1,000 ms; otherwise no deadline moves. When 5,000 ms have passed since the last frame of an ACTIVE link, it
becomes SILENT; FEED is raised with the feed as detail while the race clock is RUNNING; an ARMED feed's waiting ends. -/
def Obligations.WaitingEnds : Prop :=
  (∀ (s : State) (p : Port) (x : Feed) (f : Frame) (rest : List Frame) (code : Byte), s.Asks p f rest →
    p.feed? = some x → f.kind = Kind.matState → f.payload = [code] →
    let answer (m : MatState) (u : State) : Prop :=
      exec (.matState p) s = .next ((u.setFeed x { s.feed x with mat := m }).ack p f
        ([code] ++ le 2 (s.feed x).queue.length ++ le 2 (512 - (s.feed x).queue.length)))
    let u := s.taken p rest
    (code ≠ 0#8 → code ≠ 1#8 → exec (.matState p) s = .next (u.refuse p f .range)) ∧
    (code = 1#8 → answer .armed u) ∧
    (code = 0#8 → ((s.feed x).link = .silent ∨ (s.feed x).mat = .disarmed) → answer .disarmed u) ∧
    (code = 0#8 → (s.feed x).link = .active → (s.feed x).mat = .armed →
      answer .disarmed { u with engine := { s.engine with crossings := s.engine.crossings.map (fun c =>
        if c.opener = x.other then { c with deadline := min c.deadline (max s.now (c.openedAt + 1000)) } else c) } })) ∧
  (∀ (s : State) (x : Feed) (t : Nat), s.held = false → (s.feed x).link = .active → (s.feed x).lastFrame = some t →
    t + 5000 ≤ s.now →
    let u := if s.clock.epoch = none then s else raiseFault .feed (match x with | .a => 0 | .b => 1) s
    let silent := u.setFeed x { s.feed x with link := .silent }
    ((s.feed x).mat = .disarmed → exec (.silenceExpiry x) s = .next silent) ∧
    ((s.feed x).mat = .armed → exec (.silenceExpiry x) s = .next { silent with
      engine := { s.engine with crossings := s.engine.crossings.map (fun c =>
        if c.opener = x.other then { c with deadline := min c.deadline (max s.now (c.openedAt + 1000)) } else c) } }))

/-! ### The runner directory (01) -/

/-- A record written is read back with its check code computed for that content, and every other record is as it was; the wave
table and the place counters likewise. Stored content that changes without a write keeps its check code: a record's within
its fields' ranges, and the setup block's. -/
def Obligations.StoredContentReadsBack : Prop :=
  (∀ (d : Directory) (bib : Nat) (x : RecordFields) (wave gun pass division n : Nat), d.Canonical →
    division ≤ 7 →
    (d.write bib x).record bib = { fields := x, codedFor := x } ∧
    (∀ b, b ≠ bib → (d.write bib x).record b = d.record b) ∧
    (d.startWave wave gun).waveGun wave = some gun ∧
    (∀ w, w ≠ wave → (d.startWave wave gun).waveGun w = d.waveGun w) ∧
    (d.setPlace pass division n).place pass division = n ∧
    (∀ q e, e ≤ 7 → (q, e) ≠ (pass, division) → (d.setPlace pass division n).place q e = d.place q e)) ∧
  (∀ s : State,
    (∀ bib content, 1 ≤ bib → bib ≤ 60000 → content.inRange = true → ∃ d,
      exec (.recordUpset bib content) s = .next { s with dir := d } ∧
      (s.dir.Canonical → d.record bib = ⟨content, (s.dir.record bib).codedFor⟩ ∧
        (∀ b, b ≠ bib → d.record b = s.dir.record b)) ∧
      d.aliasMap = s.dir.aliasMap ∧ d.waves = s.dir.waves ∧ d.places = s.dir.places ∧ d.integrityOn = s.dir.integrityOn) ∧
    (∀ items, exec (.setupBlockChange items) s =
      .next { s with setup := { s.setup with block := { s.setup.block with items := items } } }))

/-- RUNNER LOAD on port C: refused RANGE or STATE before anything is written; accepted, each load record is written in order
(state ENTERED, its descriptive fields, suspect no, the crossing history kept), and every SUSPECT entry of a written bib
is marked releasing. -/
def Obligations.RunnerLoadTaken : Prop :=
  ∀ (s : State) (f : Frame) (rest : List Frame) (rs : List Layout.LoadRecord), s.Asks .c f rest →
    f.kind = Kind.runnerLoad → Layout.runnerLoad f.payload = some rs →
    let u := s.taken .c rest
    let outOfRange : Prop := rs.length = 0 ∨ 64 < rs.length ∨ ∃ r ∈ rs, r.bib = 0 ∨ 60000 < r.bib ∨ 31 < r.wave ∨
      7 < r.division ∨ 1 < r.featured ∨ ∃ t, r.start = some t ∧ 86400000 < t
    let withdrawn : Prop := ∃ r ∈ rs, (s.dir.record r.bib).fields.state = .withdrawn
    (outOfRange → exec (.runnerLoad .c) s = .next (u.refuse .c f .range)) ∧
    (¬ outOfRange → withdrawn → exec (.runnerLoad .c) s = .next (u.refuse .c f .state)) ∧
    (¬ outOfRange → ¬ withdrawn → exec (.runnerLoad .c) s = .next (State.ack { u with
        dir := rs.foldl (fun d r => d.write r.bib { (d.record r.bib).fields with
          state := .entered, wave := r.wave, division := r.division, featured := decide (r.featured = 1),
          nameTag := r.nameTag, start := r.start, suspect := false }) s.dir
        hold := { s.hold with list := s.hold.list.map (fun e => match e.reason with
          | .suspect b => if (rs.map Layout.LoadRecord.bib).contains b then { e with releasing := true } else e
          | .wave _ _ => e
          | .unknownChip => e) } } .c f (le 1 rs.length)))

/-- RUNNER READ on port C answers the record as stored. With the integrity enable on, a record whose check code is not that of
its fields is first marked suspect and reported: captured into an empty integrity record with a notice, else counted. -/
def Obligations.RunnerReadTaken : Prop :=
  ∀ (s : State) (f : Frame) (rest : List Frame) (bib : Nat), s.Asks .c f rest → f.kind = Kind.runnerRead →
    Layout.one 2 f.payload = some bib →
    let u := s.taken .c rest
    let r := s.dir.record bib
    let answer (x : RecordFields) (v : State) : Prop := exec (.runnerRead .c) s = .next (v.ack .c f
      (le 2 bib ++ [match x.state with | .empty => 0#8 | .entered => 1#8 | .withdrawn => 2#8] ++ le 1 (yesNo x.suspect)
        ++ le 1 x.wave ++ le 1 x.division ++ le 1 (yesNo x.featured) ++ le 1 x.made ++ le 2 x.nameTag
        ++ leOpt 4 x.start ++ leOpt 4 x.last))
    let failed : Prop := s.dir.integrityOn = true ∧ r.codedFor ≠ r.fields
    let marked : State := { u with dir := s.dir.write bib { r.fields with suspect := true } }
    ((bib = 0 ∨ 60000 < bib) → exec (.runnerRead .c) s = .next (u.refuse .c f .range)) ∧
    (1 ≤ bib → bib ≤ 60000 → ¬ failed → answer r.fields u) ∧
    (1 ≤ bib → bib ≤ 60000 → failed →
      (s.faults.integrity = none → answer { r.fields with suspect := true }
        (State.notice { marked with faults := { s.faults with integrity := some ⟨bib, s.now, 0⟩ } } Kind.faultNotice
          (le 1 1 ++ le 1 0xFF ++ le 6 s.now ++ le 4 bib ++ le 1 0 ++ le 1 0))) ∧
      (∀ held, s.faults.integrity = some held → answer { r.fields with suspect := true }
        { marked with faults := { s.faults with integrity := some { held with further := min 255 (held.further + 1) } } }))

/-- ALIAS SET and ALIAS CLEAR on port C: the map's entry of the code is replaced, taken or freed; a full map refuses FULL, a
code not held refuses UNKNOWN, a direct code or a bib out of range RANGE. -/
def Obligations.AliasRequestsTaken : Prop :=
  ∀ (s : State) (f : Frame) (rest : List Frame), s.Asks .c f rest →
    let u := s.taken .c rest
    let map := s.dir.aliasMap
    (∀ chip bib, f.kind = Kind.aliasSet → Layout.aliasSet f.payload = some (chip, bib) →
      ((chip ≤ 60000 ∨ 60000 < bib) → exec (.aliasSet .c) s = .next (u.refuse .c f .range)) ∧
      (60000 < chip → bib ≤ 60000 → (∃ e ∈ map, e.1 = chip) → exec (.aliasSet .c) s = .next (State.ack { u with
          dir := { s.dir with aliasMap := map.map (fun e => if e.1 = chip then (chip, bib) else e) } } .c f
        ([1#8] ++ le 2 (256 - map.length)))) ∧
      (60000 < chip → bib ≤ 60000 → (∀ e ∈ map, e.1 ≠ chip) → map.length < 256 →
        exec (.aliasSet .c) s = .next (State.ack { u with dir := { s.dir with aliasMap := map ++ [(chip, bib)] } } .c f
          ([0#8] ++ le 2 (256 - (map.length + 1))))) ∧
      (60000 < chip → bib ≤ 60000 → (∀ e ∈ map, e.1 ≠ chip) → 256 ≤ map.length →
        exec (.aliasSet .c) s = .next (u.refuse .c f .full))) ∧
    (∀ chip, f.kind = Kind.aliasClear → Layout.one 4 f.payload = some chip →
      (chip ≤ 60000 → exec (.aliasClear .c) s = .next (u.refuse .c f .range)) ∧
      (60000 < chip → (∀ e ∈ map, e.1 ≠ chip) → exec (.aliasClear .c) s = .next (u.refuse .c f .unknown)) ∧
      (60000 < chip → (∃ e ∈ map, e.1 = chip) →
        let left := map.filter (fun e => e.1 != chip)
        exec (.aliasClear .c) s = .next (State.ack { u with dir := { s.dir with aliasMap := left } } .c f
          (le 2 (256 - left.length))) ∧ ({ s.dir with aliasMap := left }).aliasOf chip = none))

/-- WAVE START on port C: a wave above 31 is refused RANGE, then STATE while UNSET, RANGE for a gun time later than race time
now or above 86,400,000 ms, STATE when it is STARTED; else it is STARTED with the given gun time or race time now, and
every WAVE entry of that wave is marked releasing. WAVE SET on port C: refused RANGE for a wave above 31 or a gun time above
86,400,000 ms, whatever the race clock (log entry 14), then STATE while UNSET, RANGE for a gun time later than race time
now, STATE while WAITING; else the wave's gun time becomes the given time, and nothing else changes. -/
def Obligations.WaveRequestsTaken : Prop :=
  (∀ (s : State) (f : Frame) (rest : List Frame) (wave : Nat) (given : Option Nat), s.Asks .c f rest →
    f.kind = Kind.waveStart → Layout.waveStart f.payload = some (wave, given) →
    let u := s.taken .c rest
    let refused (r : Reason) : Prop := exec (.waveStart .c) s = .next (u.refuse .c f r)
    (31 < wave → refused .range) ∧
    (wave ≤ 31 → s.clock.epoch = none → refused .state) ∧
    (∀ e, wave ≤ 31 → s.clock.epoch = some e →
      let gun := given.getD (s.now - e)
      ((s.now - e < gun ∨ 86400000 < gun) → refused .range) ∧
      (gun ≤ s.now - e → gun ≤ 86400000 → (s.dir.waveGun wave).isSome → refused .state) ∧
      (gun ≤ s.now - e → gun ≤ 86400000 → s.dir.waveGun wave = none →
        exec (.waveStart .c) s = .next (State.ack { u with
          dir := s.dir.startWave wave gun
          hold := { s.hold with list := s.hold.list.map (fun e => match e.reason with
            | .wave _ w => if w = wave then { e with releasing := true } else e
            | .suspect _ => e
            | .unknownChip => e) } } .c f (le 1 wave ++ le 4 gun))))) ∧
  (∀ (s : State) (f : Frame) (rest : List Frame) (wave gun : Nat), s.Asks .c f rest →
    f.kind = Kind.waveSet → Layout.waveSet f.payload = some (wave, gun) →
    let u := s.taken .c rest
    let refused (r : Reason) : Prop := exec (.waveSet .c) s = .next (u.refuse .c f r)
    ((31 < wave ∨ 86400000 < gun) → refused .range) ∧
    (wave ≤ 31 → gun ≤ 86400000 → s.clock.epoch = none → refused .state) ∧
    (∀ e, wave ≤ 31 → gun ≤ 86400000 → s.clock.epoch = some e →
      (s.now - e < gun → refused .range) ∧
      (gun ≤ s.now - e → s.dir.waveGun wave = none → refused .state) ∧
      (gun ≤ s.now - e → (s.dir.waveGun wave).isSome →
        exec (.waveSet .c) s = .next
          (State.ack { u with dir := s.dir.startWave wave gun } .c f (le 1 wave ++ le 4 gun)))))

/-! ### Crossings (03) -/

/-- POINT SET on port C: RANGE when a setting is out of range, then STATE once the race clock is RUNNING; else all six
settings are replaced and echoed. -/
def Obligations.PointSetTaken : Prop :=
  ∀ (s : State) (f : Frame) (rest : List Frame) (x : PointSettings), s.Asks .c f rest →
    f.kind = Kind.pointSet → Layout.pointSet f.payload = some x →
    let u := s.taken .c rest
    let inRange : Prop := (1 ≤ x.passes ∧ x.passes ≤ 2) ∧ (1 ≤ x.distance1 ∧ x.distance1 ≤ 50000) ∧
      (x.distance1 < x.distance2 ∧ x.distance2 ≤ 50000) ∧ (2000 ≤ x.settleWindow ∧ x.settleWindow ≤ 30000) ∧
      (10 ≤ x.rearmGap ∧ x.rearmGap ≤ 240) ∧ (30 ≤ x.lateLimit ∧ x.lateLimit ≤ 600)
    (¬ inRange → exec (.pointSet .c) s = .next (u.refuse .c f .range)) ∧
    (inRange → s.clock.epoch.isSome → exec (.pointSet .c) s = .next (u.refuse .c f .state)) ∧
    (inRange → s.clock.epoch = none → exec (.pointSet .c) s =
      .next (State.ack { u with engine := { s.engine with point := x } } .c f
        (le 1 x.passes ++ [0#8] ++ le 2 x.distance1 ++ le 2 x.distance2 ++ le 4 x.settleWindow ++ le 2 x.rearmGap
          ++ le 2 x.lateLimit)))

/-- The intake arbiter: with a free entry in the open crossing table, READ_JUDGEMENT takes the oldest read of the queue next
in turn, or of the first along the cycle A, B, release that holds one; next in turn is then the queue after it. A full
table or three empty queues give no take. -/
def Obligations.ArbiterTakes : Prop :=
  ∀ (s : State) (e : Nat), s.held = false → s.clock.epoch = some e →
    let turn := s.engine.nextTurn
    let noA : Prop := s.feeds.a.queue = []
    let noB : Prop := s.feeds.b.queue = []
    let noR : Prop := s.hold.release = []
    let judged (r : JudgedRead) (t : State) (next : Turn) : Prop :=
      exec .readJudgement s = .next (judge r (s.now - e) { t with engine := { s.engine with nextTurn := next } })
    (2048 ≤ s.engine.crossings.length → exec .readJudgement s = .next s) ∧
    (noA → noB → noR → exec .readJudgement s = .next s) ∧
    (∀ r rest, s.engine.crossings.length < 2048 → s.feeds.a.queue = r :: rest →
      (turn = .feedA ∨ (turn = .release ∧ noR) ∨ (turn = .feedB ∧ noB ∧ noR)) →
      judged ⟨r.chip, .a, r.time, r.quality, false⟩
        { s with feeds := { s.feeds with a := { s.feeds.a with queue := rest } } } .feedB) ∧
    (∀ r rest, s.engine.crossings.length < 2048 → s.feeds.b.queue = r :: rest →
      (turn = .feedB ∨ (turn = .feedA ∧ noA) ∨ (turn = .release ∧ noR ∧ noA)) →
      judged ⟨r.chip, .b, r.time, r.quality, false⟩
        { s with feeds := { s.feeds with b := { s.feeds.b with queue := rest } } } .release) ∧
    (∀ r rest, s.engine.crossings.length < 2048 → s.hold.release = r :: rest →
      (turn = .release ∨ (turn = .feedB ∧ noB) ∨ (turn = .feedA ∧ noA ∧ noB)) →
      judged ⟨r.chip, r.feed, r.time, r.quality, true⟩ { s with hold := { s.hold with release := rest } } .feedA)

/-- The resolution of a read in the order of its nine steps; the first that applies decides. `rd` is the record as the
directory returns it, after the integrity check (`t` is the state that leaves). -/
def Obligations.ReadIsResolved : Prop :=
  ∀ (s : State) (r : JudgedRead) (raceNow : Nat),
    (60000 < r.chip → s.dir.aliasOf r.chip = some 0 → judge r raceNow s = s.count r.feed .barred) ∧
    (60000 < r.chip → s.dir.aliasOf r.chip = none → judge r raceNow s = holdRead r .unknownChip s) ∧
    (∀ bib, (r.chip ≤ 60000 ∧ bib = r.chip ∨ 60000 < r.chip ∧ bib ≠ 0 ∧ s.dir.aliasOf r.chip = some bib) →
      let rd := (readChecked bib s).1
      let t := (readChecked bib s).2
      let known : Prop := rd.state ≠ .empty ∧ rd.suspect = false
      let inTime : Prop := known ∧ rd.state = .entered ∧ r.time ≤ raceNow + 2000
      (rd.state = .empty → judge r raceNow s = holdRead r .unknownChip t) ∧
      (rd.state ≠ .empty → rd.suspect = true → judge r raceNow s = holdRead r (.suspect bib) t) ∧
      (known → rd.state = .withdrawn → judge r raceNow s = t.count r.feed .withdrawn) ∧
      (known → rd.state = .entered → raceNow + 2000 < r.time → judge r raceNow s = t.count r.feed .future) ∧
      (inTime → s.dir.waveGun rd.wave = none → judge r raceNow s = holdRead r (.wave bib rd.wave) t) ∧
      (∀ gun, inTime → s.dir.waveGun rd.wave = some gun →
        (r.time < gun → judge r raceNow s = t.count r.feed .beforeGun) ∧
        (gun ≤ r.time → judge r raceNow s = placeRead bib rd r t)))

/-- Steps 6 to 9 for a read that reached them: it merges into its runner's open crossing; else it is STRAY within the re-arm
gap after the last crossing, EXCESS once every pass is made (log entry 15), and else it opens a crossing, whose deadline
follows the partner's waiting status; the opening that fills the table raises CROSSING FULL. -/
def Obligations.ReadIsPlaced : Prop :=
  ∀ (s : State) (bib : Nat) (rd : RecordFields) (r : JudgedRead),
    let isA := decide (r.feed = .a)
    let isB := decide (r.feed = .b)
    let stray : Prop := 1 ≤ rd.made ∧ ∃ t, rd.last = some t ∧ r.time < t + s.engine.point.rearmGap * 60000
    (∀ c, s.engine.find? bib = some c →
      let bound := if (c.seenA || isA) && (c.seenB || isB) && !(c.seenA && c.seenB)
        then min c.deadline (max s.now (c.openedAt + 1000)) else c.deadline
      let m : OpenCrossing := { c with
        time := min c.time r.time, seenA := c.seenA || isA, seenB := c.seenB || isB
        quality := c.quality.worse r.quality, held := c.held || r.held, deadline := bound }
      placeRead bib rd r s = { s.count r.feed .merged with
        engine := { s.engine with crossings := s.engine.crossings.map (fun d => if d.bib = c.bib then m else d) } }) ∧
    (s.engine.find? bib = none → stray → placeRead bib rd r s = s.count r.feed .stray) ∧
    (s.engine.find? bib = none → ¬ stray → s.engine.point.passes ≤ rd.made →
      placeRead bib rd r s = s.count r.feed .excess) ∧
    (s.engine.find? bib = none → ¬ stray → rd.made < s.engine.point.passes →
      let waiting : Prop := (s.feed r.feed.other).link = .active ∧ (s.feed r.feed.other).mat = .armed
      let c : OpenCrossing :=
        { bib := bib, pass := rd.made + 1, opener := r.feed, seenA := isA, seenB := isB, time := r.time
          quality := r.quality, held := r.held, openedAt := s.now
          deadline := s.now + if waiting then s.engine.point.settleWindow else 1000 }
      let opened : State :=
        { s.count r.feed .opened with engine := { s.engine with crossings := s.engine.crossings ++ [c] } }
      (s.engine.crossings.length + 1 ≠ 2048 → placeRead bib rd r s = opened) ∧
      (s.engine.crossings.length + 1 = 2048 → placeRead bib rd r s = raiseFault .crossingFull bib opened))

/-- When course time reaches the deadline of an open crossing, the crossing is posted with its own pass, time, quality, feeds
seen and held mark, and its entry is freed. The actions of a posting, from the record as read (`rd`, `t` after its check):
split and flags, the next place of the pass and division, the record's history, the log entry, and the offer unless the
posting is LATE; and the posting itself, whose place, figures and flags CROSSING ENTER answers with. In the flags' byte bit 0
is featured, then both feeds, approximate, LATE, held, no start and, bit 6, amended. Crossings made stops at 2, its range
(log entry 15). -/
def Obligations.CrossingIsPosted : Prop :=
  (∀ (s : State) (bib e : Nat) (c : OpenCrossing), s.held = false → s.clock.epoch = some e →
    s.engine.find? bib = some c → c.deadline ≤ s.now →
    let t := (post ⟨.posted, bib, c.pass, c.time, c.quality, c.seenA && c.seenB, c.held⟩ (s.now - e) s).2
    exec (.deadlineExpiry bib) s = .next { t with
      engine := { s.engine with crossings := s.engine.crossings.filter (fun d => d.bib != bib) } }) ∧
  (∀ (s : State) (i : PostInput) (raceNow : Nat),
    let rd := (readChecked i.bib s).1
    let t := (readChecked i.bib s).2
    let place := t.dir.place i.pass rd.division + 1
    let gun := (s.dir.waveGun rd.wave).getD 0
    let distance := if i.pass ≤ 1 then s.engine.point.distance1 else s.engine.point.distance2
    let chip := match rd.start with | some x => i.time - x | none => i.time - gun
    let figs : Figures := ⟨i.pass, i.time, i.time - gun, chip, min 4294967295 (chip * 1000 / distance)⟩
    let late := decide (i.time + s.engine.point.lateLimit * 1000 < raceNow)
    let flags : SplitFlags := ⟨rd.featured, i.bothFeeds, i.quality = .holdover ∨ i.quality = .localRc, late, i.held,
      rd.start = none⟩
    let b : BoardPosting := ⟨s.log.newest + 1, i.bib, i.pass, rd.nameTag, rd.division, chip / 1000, figs.pace, place,
      flags, false, 0⟩
    (post i raceNow s).1 = ⟨s.log.newest + 1, place, figs, flags⟩ ∧
    (post i raceNow s).2 = { t with
      dir := (t.dir.setPlace i.pass rd.division place).write i.bib
        { rd with made := min 2 (rd.made + 1), last := some i.time }
      log := s.log.append i.kind i.bib (some figs) (some place) flags
      board := if late then s.board else s.board.offer s.now b }) ∧
  (∀ (f : SplitFlags) (amended : Bool),
    let byte := f.byte amended
    byte < 128 ∧ byte.testBit 0 = f.featured ∧ byte.testBit 1 = f.bothFeeds ∧ byte.testBit 2 = f.approx ∧
    byte.testBit 3 = f.late ∧ byte.testBit 4 = f.held ∧ byte.testBit 5 = f.noStart ∧ byte.testBit 6 = amended)

/-! ### The hold list (04) -/

/-- A hold handed over: merged into the entry of its chip code, else a new entry at the newest end (with a HOLD NOTICE when it
is the first), else, with 64 entries listed, discarded: LOST, the hold over flag set, HOLD FULL raised. The worse of two
qualities is the later in EXACT, TRACKED, HOLDOVER, LOCAL. -/
def Obligations.HoldIsTaken : Prop :=
  (∀ (s : State) (r : JudgedRead) (reason : HoldReason),
    let new : HoldEntry := ⟨r.chip, reason, r.feed, r.time, r.quality, 1, s.now, false⟩
    let listed : Prop := ∃ e ∈ s.hold.list, e.chip = r.chip
    let added : State := { s.count r.feed .held with hold := { s.hold with list := s.hold.list ++ [new] } }
    (listed → holdRead r reason s = { s.count r.feed .held with
      hold := { s.hold with list := s.hold.list.map (fun e => if e.chip = r.chip then { e with
        time := min e.time r.time, quality := e.quality.worse r.quality, count := min 255 (e.count + 1)
        reason := reason } else e) } }) ∧
    (¬ listed → s.hold.list = [] → holdRead r reason s = added.notice Kind.holdNotice
      (le 4 r.chip ++ [match reason with | .unknownChip => 0#8 | .wave _ _ => 1#8 | .suspect _ => 2#8, 0#8]
        ++ le 2 (match reason with | .unknownChip => 0 | .wave b _ => b | .suspect b => b) ++ le 6 s.now)) ∧
    (¬ listed → s.hold.list ≠ [] → s.hold.list.length < 64 → holdRead r reason s = added) ∧
    (¬ listed → 64 ≤ s.hold.list.length →
      holdRead r reason s = raiseFault .holdFull r.chip
        { s.count r.feed .lost with hold := { s.hold with holdOver := true } })) ∧
  (∀ p q : Quality,
    let order : List Quality := [.exact, .tracked, .holdover, .localRc]
    p.worse q = if order.idxOf p ≤ order.idxOf q then q else p)

/-- HOLD RESOLVE on port C, in either of its rows: the refusals in the order RANGE, STATE, FULL, UNKNOWN; ADMIT writes the
alias map for a code above 60,000 and marks the entry; REJECT removes the entry, counts BARRED once against its feed and
writes a bar where it can. -/
def Obligations.HoldResolveTaken : Prop :=
  ∀ (s : State) (f : Frame) (rest : List Frame) (r : Layout.Resolve), s.Asks .c f rest → f.kind = Kind.holdResolve →
    Layout.holdResolve f.payload = some r →
    let u := s.taken .c rest
    let row : Instr := if r.resolution = 1 then .holdResolveReject .c else .holdResolveAdmit .c
    let refused (why : Reason) : Prop := exec row s = .next (u.refuse .c f why)
    let map := s.dir.aliasMap
    let mapped : Prop := ∃ x ∈ map, x.1 = r.chip
    let outOfRange : Prop := 1 < r.resolution ∨ r.chip = 0 ∨
      (r.resolution = 0 ∧ (r.bib = 0 ∨ 60000 < r.bib ∨ (r.chip ≤ 60000 ∧ r.bib ≠ r.chip)))
    let wrongState : Prop := (r.resolution = 0 ∧ (s.dir.record r.bib).fields.state ≠ .entered) ∨
      ∃ e, s.hold.find? r.chip = some e ∧ e.releasing = true
    let full : Prop := r.resolution = 0 ∧ 60000 < r.chip ∧ ¬ mapped ∧ 256 ≤ map.length
    let bib := if r.resolution = 1 then 0 else r.bib
    let taken : Prop := 60000 < r.chip ∧ ¬ mapped ∧ map.length < 256
    let map' := if 60000 < r.chip ∧ mapped then map.map (fun x => if x.1 = r.chip then (r.chip, bib) else x)
      else if taken then map ++ [(r.chip, bib)] else map
    let written : Nat := if 60000 < r.chip ∧ mapped then 1 else if taken then 0 else 2
    let results := le 4 r.chip ++ le 1 r.resolution ++ le 1 written ++ le 2 (256 - map'.length)
    let dir' : Directory := { s.dir with aliasMap := map' }
    (outOfRange → refused .range) ∧
    (¬ outOfRange → wrongState → refused .state) ∧
    (¬ outOfRange → ¬ wrongState → full → refused .full) ∧
    (¬ outOfRange → ¬ wrongState → ¬ full → s.hold.find? r.chip = none → refused .unknown) ∧
    (∀ e, ¬ outOfRange → ¬ wrongState → ¬ full → s.hold.find? r.chip = some e →
      (r.resolution = 0 → exec row s = .next (State.ack { u with
        dir := dir'
        hold := { s.hold with
          list := s.hold.list.map (fun x => if x.chip = r.chip then { x with releasing := true } else x) } } .c f
        results)) ∧
      (r.resolution = 1 →
        let left := s.hold.list.filter (fun x => x.chip != r.chip)
        exec row s = .next (State.ack { u.count e.feed .barred with
          dir := dir'
          hold := { s.hold with list := left, holdOver := if left = [] then false else s.hold.holdOver } } .c f
          results)))

/-- HOLD TIMEOUT SET on port C takes 1 to 60 minutes. An entry not marked releasing is removed when course time reaches its
entered at plus the timeout in force, TIMED OUT counted once against its feed; a marked entry does not time out. The
oldest entry marked releasing moves to the newest end of a release queue with a free place, carrying its chip code, feed,
time and quality, and keeping its reason and count alongside; nothing is counted. A queue of 64 takes none. -/
def Obligations.HoldsLeaveTheList : Prop :=
  (∀ s : State,
    (∀ f rest minutes, s.Asks .c f rest → f.kind = Kind.holdTimeoutSet → Layout.one 2 f.payload = some minutes →
      let u := s.taken .c rest
      ((minutes = 0 ∨ 60 < minutes) → exec (.holdTimeoutSet .c) s = .next (u.refuse .c f .range)) ∧
      (1 ≤ minutes → minutes ≤ 60 → exec (.holdTimeoutSet .c) s =
        .next (State.ack { u with hold := { s.hold with timeout := minutes } } .c f (le 2 minutes)))) ∧
    (∀ chip e, s.held = false → s.hold.find? chip = some e →
      let left := s.hold.list.filter (fun x => x.chip != chip)
      (e.releasing = false → e.enteredAt + s.hold.timeout * 60000 ≤ s.now →
        exec (.holdTimeoutExpiry chip) s = .next { s.count e.feed .timedOut with
          hold := { s.hold with list := left, holdOver := if left = [] then false else s.hold.holdOver } }) ∧
      (e.releasing = true ∨ s.now < e.enteredAt + s.hold.timeout * 60000 →
        exec (.holdTimeoutExpiry chip) s = .next s))) ∧
  (∀ s : State, s.held = false →
    (∀ older e newer, s.hold.list = older ++ e :: newer → (∀ x ∈ older, x.releasing = false) → e.releasing = true →
      (∀ x ∈ older ++ newer, x.chip ≠ e.chip) → s.hold.release.length < 64 →
      exec .releaseMove s = .next { s with hold := { s.hold with
        list := older ++ newer
        release := s.hold.release ++ [⟨e.chip, e.feed, e.time, e.quality, e.reason, e.count⟩]
        holdOver := if older ++ newer = [] then false else s.hold.holdOver } }) ∧
    (64 ≤ s.hold.release.length → exec .releaseMove s = .next s))

/-! ### The split log (05) -/

/-- An append gives the entry the next sequence and places it last; a log of 8,192 entries first loses its oldest. -/
def Obligations.LogAppends : Prop :=
  ∀ (l : SplitLog) (kind : EntryKind) (bib : Nat) (figs : Option Figures) (place : Option Nat) (flags : SplitFlags),
    let e : LogEntry := ⟨l.newest + 1, kind, bib, figs, place, flags⟩
    let m := l.append kind bib figs place flags
    m.newest = l.newest + 1 ∧
    (l.entries.length < 8192 → m.entries = l.entries ++ [e]) ∧
    (∀ oldest kept, l.entries = oldest :: kept → l.entries.length = 8192 → m.entries = kept ++ [e]) ∧
    (l.Ok → m.Ok)

/-- SPLITS READ on port C changes nothing: RANGE for 0 and beyond the newest plus one, GONE below the oldest retained sequence
(which the REFUSE carries), else up to 16 entries from the start sequence on, with the oldest and newest sequences. HOLDS
READ on port C changes nothing: RANGE for a start index above 63 or above the number of entries, else up to 16 entries
from that index on, oldest first, with the list's number, the hold over flag, the release queue's number and the timeout. -/
def Obligations.ListsAreRead : Prop :=
  (∀ (s : State) (f : Frame) (rest : List Frame) (start : Nat), s.Asks .c f rest → s.log.Ok →
    f.kind = Kind.splitsRead → Layout.one 4 f.payload = some start →
    let u := s.taken .c rest
    let oldest := match s.log.entries with | e :: _ => e.seq | [] => 0
    let carried := (s.log.entries.filter (fun e => decide (start ≤ e.seq))).take 16
    let code (k : EntryKind) : Byte := match k with
      | .posted => 1#8 | .manual => 2#8 | .amended => 3#8 | .voided => 4#8 | .reinstated => 5#8
    let row (e : LogEntry) : List Byte := le 4 e.seq ++ le 2 e.bib ++ [code e.kind] ++ (match e.figures with
        | some x => le 1 x.pass ++ le 4 x.time ++ le 4 x.gunSplit ++ le 4 x.chipSplit ++ le 4 x.pace
        | none => [0#8] ++ List.replicate 16 0xFF#8)
      ++ le 2 (e.place.getD 0) ++ le 1 (e.flags.byte false) ++ [0#8]
    ((start = 0 ∨ s.log.newest + 1 < start) → exec (.splitsRead .c) s = .next (u.refuse .c f .range)) ∧
    (1 ≤ start → start < oldest → exec (.splitsRead .c) s = .next (u.answer .c
      ⟨0x81#8, f.tag, [f.kind, 9#8, 0#8] ++ le 4 oldest⟩ false)) ∧
    (1 ≤ start → oldest ≤ start → start ≤ s.log.newest + 1 → exec (.splitsRead .c) s = .next (u.ack .c f
      (le 4 oldest ++ le 4 s.log.newest ++ le 1 carried.length ++ [0#8] ++ carried.flatMap row)))) ∧
  (∀ (s : State) (f : Frame) (rest : List Frame) (start : Nat), s.Asks .c f rest →
    f.kind = Kind.holdsRead → Layout.one 1 f.payload = some start →
    let u := s.taken .c rest
    let carried := (s.hold.list.drop start).take 16
    let row (e : HoldEntry) (index : Nat) : List Byte := le 4 e.chip ++ le 1 index
      ++ (match e.reason with
        | .unknownChip => [0#8, 0#8, 0#8, 0xFF#8]
        | .wave b w => [1#8] ++ le 2 b ++ le 1 w
        | .suspect b => [2#8] ++ le 2 b ++ [0xFF#8])
      ++ [match e.feed with | .a => 0#8 | .b => 1#8]
      ++ [match e.quality with | .exact => 0#8 | .tracked => 1#8 | .holdover => 2#8 | .localRc => 3#8]
      ++ le 1 e.count ++ le 4 e.time ++ le 6 e.enteredAt ++ [if e.releasing then 1#8 else 0#8, 0#8]
    ((63 < start ∨ s.hold.list.length < start) → exec (.holdsRead .c) s = .next (u.refuse .c f .range)) ∧
    (start ≤ 63 → start ≤ s.hold.list.length → exec (.holdsRead .c) s = .next (u.ack .c f
      (le 1 s.hold.list.length ++ [if s.hold.holdOver then 1#8 else 0#8] ++ le 1 s.hold.release.length
        ++ le 2 s.hold.timeout ++ le 1 carried.length ++ [0#8]
        ++ (carried.zipIdx start).flatMap (fun x => row x.1 x.2)))))

/-! ### The board (06) -/

/-- An offer places the posting at the newest end of LEAD, FEAT or FLOW: the first whose condition holds; a full lane first
loses its oldest, which for FLOW counts the banner; the board is LIVE with this time of the last offer. When course time
reaches the time of the last offer plus the quiet interval, a LIVE board becomes QUIET, and nothing else changes. -/
def Obligations.OffersAndQuiet : Prop :=
  (∀ (b : Board) (now : Nat) (x : BoardPosting),
    let live := { b with lastOffer := some now }
    (x.place ≤ b.settings.leadDepth →
      (b.lead.length < 16 → b.offer now x = { live with lead := b.lead ++ [x] }) ∧
      (∀ o kept, b.lead = o :: kept → b.lead.length = 16 → b.offer now x = { live with lead := kept ++ [x] })) ∧
    (b.settings.leadDepth < x.place → x.flags.featured = true →
      (b.feat.length < 64 → b.offer now x = { live with feat := b.feat ++ [x] }) ∧
      (∀ o kept, b.feat = o :: kept → b.feat.length = 64 → b.offer now x = { live with feat := kept ++ [x] })) ∧
    (b.settings.leadDepth < x.place → x.flags.featured = false →
      (b.flow.length < 256 → b.offer now x = { live with flow := b.flow ++ [x] }) ∧
      (∀ o kept, b.flow = o :: kept → b.flow.length = 256 →
        b.offer now x = { live with flow := kept ++ [x], banner := min 65535 (b.banner + 1) }))) ∧
  (∀ (s : State) (t : Nat), s.held = false → s.board.lastOffer = some t →
    (t + s.board.settings.quietInterval * 1000 ≤ s.now →
      exec .quietExpiry s = .next { s with board := { s.board with lastOffer := none } }) ∧
    (s.now < t + s.board.settings.quietInterval * 1000 → exec .quietExpiry s = .next s))

/-- PAGE on port D: a PATTERN page while a pattern is set; else a dimmed CLOCK page while QUIET; else the page the rotation
gives. The first two change nothing. A rotation page of an eligible current slot: a lane page carries the oldest postings
up to `rows`, raises their shows and removes those at the dwell; a FLOW page also carries the banner count and clears it;
a CLOCK page is not dimmed and touches no lane. The page count rises by one, and at the hold count the rotation advances.
To advance: the first eligible slot after the current one in list order, ending with the current slot itself, becomes
current; with none the slot stays; the page count is 0. A page of a slot that is not eligible is composed after an
advance; with no eligible slot it is a CLOCK page that counts nothing. A CLOCK page carries the dim mark, race time (all
ones while UNSET; from 2^32 ms on see log entry 10), quality and current source. A slot is eligible when its kind is CLOCK
or its lane holds a posting. -/
def Obligations.PagesAreComposed : Prop :=
  (∀ (s : State) (f : Frame) (rest : List Frame), s.Asks .d f rest → f.kind = Kind.page → f.payload = [] →
    let u := s.taken .d rest
    (s.board.pattern ≠ 0 → exec (.page .d) s = .next (u.ack .d f ([4#8, 0#8] ++ le 1 s.board.pattern))) ∧
    (s.board.pattern = 0 → s.board.lastOffer = none →
      exec (.page .d) s = .next (u.ack .d f (clockPage true s))) ∧
    (s.board.pattern = 0 → s.board.lastOffer.isSome →
      exec (.page .d) s = .next (State.ack { u with board := (rotationPage s).1 } .d f (rotationPage s).2))) ∧
  (∀ (s : State) (k : SlotKind) (hold : Nat), s.board.rotation[s.board.slot]? = some ⟨k, hold⟩ →
    let b := s.board
    let closed (c : Board) : Board :=
      let d := { c with pageCount := b.pageCount + 1 }
      if b.pageCount + 1 = hold then d.advance else d
    let after (dwell : Nat) (lane : List BoardPosting) : List BoardPosting :=
      ((lane.take b.settings.rows).map (fun x => { x with shows := x.shows + 1 })).filter
        (fun x => decide (x.shows < dwell)) ++ lane.drop b.settings.rows
    let row (x : BoardPosting) : List Byte := le 4 x.seq ++ le 2 x.bib ++ le 1 x.pass ++ le 1 x.division ++ le 2 x.nameTag
      ++ le 4 x.chipSeconds ++ le 4 x.pace ++ le 2 x.place ++ le 1 (x.flags.byte x.amended) ++ [0#8]
    let rows (lane : List BoardPosting) : List Byte :=
      le 1 (lane.take b.settings.rows).length ++ (lane.take b.settings.rows).flatMap row
    (k = .leaders → b.lead ≠ [] → rotationPage s =
      (closed { b with lead := after b.settings.dwellLead b.lead }, [0#8, 0#8] ++ rows b.lead)) ∧
    (k = .featured → b.feat ≠ [] → rotationPage s =
      (closed { b with feat := after b.settings.dwellFeat b.feat }, [1#8, 0#8] ++ rows b.feat)) ∧
    (k = .flow → b.flow ≠ [] → rotationPage s =
      (closed { b with flow := after b.settings.dwellFlow b.flow, banner := 0 },
        [2#8, 0#8] ++ le 2 b.banner ++ rows b.flow)) ∧
    (k = .clock → rotationPage s = (closed b, clockPage false s))) ∧
  (∀ (s : State) (x : Slot), s.board.rotation[s.board.slot]? = some x →
    let b := s.board
    let n := b.rotation.length
    (∀ i, i < n → b.eligible ((b.slot + 1 + i) % n) = true → (∀ j, j < i → b.eligible ((b.slot + 1 + j) % n) = false) →
      b.advance = { b with slot := (b.slot + 1 + i) % n, pageCount := 0 }) ∧
    ((∀ i, i < n → b.eligible ((b.slot + 1 + i) % n) = false) → b.advance = { b with pageCount := 0 }) ∧
    (b.eligible b.slot = false → b.advance.eligible b.advance.slot = true →
      rotationPage s = rotationPage { s with board := b.advance }) ∧
    (b.eligible b.slot = false → b.advance.eligible b.advance.slot = false →
      rotationPage s = (b.advance, clockPage false s))) ∧
  (∀ (s : State) (dim : Bool),
    let head : List Byte := [3#8, if dim then 1#8 else 0#8]
    let tail : List Byte := match s.clock.current with
      | .sync => [0#8, 0#8] | .beacon => [1#8, 1#8] | .xo => [2#8, 2#8] | .rc => [3#8, 3#8]
    (s.clock.epoch = none → clockPage dim s = head ++ List.replicate 4 0xFF#8 ++ tail) ∧
    (∀ e, s.clock.epoch = some e → s.now - e < 4294967296 → clockPage dim s = head ++ le 4 (s.now - e) ++ tail) ∧
    (∀ e, s.clock.epoch = some e → ∃ n, clockPage dim s = head ++ le 4 n ++ tail)) ∧
  (∀ (b : Board) (i : Nat) (x : Slot), b.rotation[i]? = some x → b.eligible i = match x.kind with
    | .clock => true
    | .leaders => decide (b.lead ≠ [])
    | .featured => decide (b.feat ≠ [])
    | .flow => decide (b.flow ≠ []))

/-- BOARD SET, ROTATION SET and PATTERN SET on port C: RANGE for a value out of range; else the settings, the list (with the
rotation at its first slot) or the pattern are replaced and echoed. -/
def Obligations.BoardRequestsTaken : Prop :=
  ∀ (s : State) (f : Frame) (rest : List Frame), s.Asks .c f rest →
    let u := s.taken .c rest
    (∀ x : BoardSettings, f.kind = Kind.boardSet → Layout.boardSet f.payload = some x →
      let ok : Prop := (4 ≤ x.rows ∧ x.rows ≤ 12) ∧ (1 ≤ x.dwellLead ∧ x.dwellLead ≤ 20) ∧
        (1 ≤ x.dwellFeat ∧ x.dwellFeat ≤ 20) ∧ (1 ≤ x.dwellFlow ∧ x.dwellFlow ≤ 20) ∧
        (1 ≤ x.leadDepth ∧ x.leadDepth ≤ 10) ∧ (10 ≤ x.quietInterval ∧ x.quietInterval ≤ 600)
      (¬ ok → exec (.boardSet .c) s = .next (u.refuse .c f .range)) ∧
      (ok → exec (.boardSet .c) s = .next (State.ack { u with board := { s.board with settings := x } } .c f
        (le 1 x.rows ++ le 1 x.dwellLead ++ le 1 x.dwellFeat ++ le 1 x.dwellFlow ++ le 1 x.leadDepth ++ [0#8]
          ++ le 2 x.quietInterval)))) ∧
    (∀ sent : List (Nat × Nat), f.kind = Kind.rotationSet → Layout.rotationSet f.payload = some sent →
      let ok : Prop := 1 ≤ sent.length ∧ sent.length ≤ 8 ∧ ∀ e ∈ sent, e.1 ≤ 3 ∧ 1 ≤ e.2
      let slots : List Slot := sent.map (fun e => ⟨match e.1 with | 0 => .leaders | 1 => .featured | 2 => .flow | _ => .clock, e.2⟩)
      (¬ ok → exec (.rotationSet .c) s = .next (u.refuse .c f .range)) ∧
      (ok → exec (.rotationSet .c) s =
        .next (State.ack { u with board := { s.board with rotation := slots, slot := 0, pageCount := 0 } } .c f
          (le 1 sent.length ++ [0#8] ++ sent.flatMap (fun e => le 1 e.1 ++ le 1 e.2))))) ∧
    (∀ n : Nat, f.kind = Kind.patternSet → Layout.one 1 f.payload = some n →
      (7 < n → exec (.patternSet .c) s = .next (u.refuse .c f .range)) ∧
      (n ≤ 7 → exec (.patternSet .c) s =
        .next (State.ack { u with board := { s.board with pattern := n } } .c f (le 1 n))))

/-! ### The race clock (07) -/

/-- GUN SET on port C: RANGE for an offset above 600,000 or above course time now, then STATE while RUNNING; else the epoch
becomes course time now less the offset, and the ACK carries the epoch and race time now, the offset. -/
def Obligations.GunSetTaken : Prop :=
  ∀ (s : State) (f : Frame) (rest : List Frame) (given : Option Nat), s.Asks .c f rest →
    f.kind = Kind.gunSet → Layout.gunSet f.payload = some given →
    let u := s.taken .c rest
    let off := given.getD 0
    ((600000 < off ∨ s.now < off) → exec (.gunSet .c) s = .next (u.refuse .c f .range)) ∧
    (off ≤ 600000 → off ≤ s.now → s.clock.epoch.isSome → exec (.gunSet .c) s = .next (u.refuse .c f .state)) ∧
    (off ≤ 600000 → off ≤ s.now → s.clock.epoch = none → exec (.gunSet .c) s =
      .next (State.ack { u with clock := { s.clock with epoch := some (s.now - off) } } .c f
        (le 6 (s.now - off) ++ le 4 off)))

/-- A mark of SYNC (SYNC_MARK) or BEACON (an accepted TIME BEACON) closes a period when the reference is present: good within
995 to 1,005 ms for SYNC, 950 to 1,050 ms for BEACON. The reference becomes the mark's course time and the watch is set
1,500 ms on. What a good or bad period does is PeriodsMoveTheState's. A missing watch that expires is a missing period:
the reference becomes absent and the watch is set 1,500 ms after the expiry. A good mark of the current source, when that
is QUALIFIED after the mark, sets the lead to the distance from the nearest whole second, -499 to +500; another mark sets
none (for the mark that qualifies the source: log entry 13). -/
def Obligations.MarksAreTaken : Prop :=
  (∀ s : State,
    let marked (r : Reference) (u : State) : State :=
      let x := { u.clock.ref r with reference := some u.now, watch := u.now + 1500 }
      { u with clock := u.clock.setRef r x }
    let good (r : Reference) (period : Nat) : Prop := match r with
      | .sync => 995 ≤ period ∧ period ≤ 1005
      | .beacon => 950 ≤ period ∧ period ≤ 1050
    (∀ (r : Reference) (u : State),
      ((u.clock.ref r).reference = none → mark r u = marked r u) ∧
      (∀ t, (u.clock.ref r).reference = some t → good r (u.now - t) →
        mark r u = setLead r (judgeRef r true (marked r u))) ∧
      (∀ t, (u.clock.ref r).reference = some t → ¬ good r (u.now - t) → mark r u = judgeRef r false (marked r u))) ∧
    (s.held = false → exec .syncMark s = .next (mark .sync s)) ∧
    (∀ f rest, s.Asks .c f rest → f.kind = Kind.timeBeacon → f.payload = [] →
      let t := mark .beacon (s.taken .c rest)
      exec (.timeBeacon .c) s = .next (t.ack .c f
        ([match t.clock.beacon.state with | .starting => 0#8 | .qualified => 1#8 | .failed => 2#8]
          ++ le 1 (if t.clock.beacon.state = .starting then t.clock.beacon.count else 0)
          ++ [match t.clock.current with | .sync => 0#8 | .beacon => 1#8 | .xo => 2#8 | .rc => 3#8])))) ∧
  (∀ (s : State) (r : Reference), s.held = false → (s.clock.ref r).watch ≤ s.now →
    let x := { s.clock.ref r with reference := none, watch := (s.clock.ref r).watch + 1500 }
    exec (.missingPeriod r) s = .next (judgeRef r false { s with clock := s.clock.setRef r x })) ∧
  (∀ (s : State) (r : Reference),
    let rest : Int := ((s.now % 1000 : Nat) : Int)
    (s.clock.current = r.source → (s.clock.ref r).state = .qualified →
      setLead r s = { s with clock := { s.clock with lead := if rest ≤ 500 then rest else rest - 1000 } }) ∧
    ((s.clock.current ≠ r.source ∨ (s.clock.ref r).state ≠ .qualified) → setLead r s = s))

/-- A good, bad or missing period moves the source's state by the table of R132; a failure of a QUALIFIED source is handed on. -/
def Obligations.PeriodsMoveTheState : Prop :=
  ∀ (s : State) (r : Reference),
    let x := s.clock.ref r
    let moved (y : RefState) : State := { s with clock := s.clock.setRef r y }
    (x.state = .starting → x.count + 1 < 16 → judgeRef r true s = moved { x with count := x.count + 1 }) ∧
    (x.state = .starting → 16 ≤ x.count + 1 →
      judgeRef r true s = moved { x with state := .qualified, count := 0, misses := 0 }) ∧
    (x.state = .starting → judgeRef r false s = moved { x with count := 0 }) ∧
    (x.state = .qualified → judgeRef r true s = moved { x with misses := 0 }) ∧
    (x.state = .qualified → x.misses + 1 < 3 → judgeRef r false s = moved { x with misses := x.misses + 1 }) ∧
    (x.state = .qualified → 3 ≤ x.misses + 1 →
      judgeRef r false s = sourceFailed r.source (moved { x with state := .failed, misses := 0 })) ∧
    (x.state = .failed → judgeRef r true s = moved { x with state := .starting, count := 1 }) ∧
    (x.state = .failed → judgeRef r false s = s)

/-- The failure of a source: of a source that is not current nothing further. Of the current one TIMEBASE is raised with the
source as detail; under fail-safe the current source becomes the XO, when that is QUALIFIED and ranks below the failed
source, else the RC, the lead becomes 0, the clock-fail flag is set, a request for the new current source is satisfied,
and a CLOCK NOTICE of class fail-safe switch follows the FAULT NOTICE. DEFERRED_FALLBACK, due since a CLOCK SETUP, is the
same fallback without TIMEBASE. (With fail-safe off nothing else changes, so a lead still outstanding stays: log entry 28.) -/
def Obligations.SourceFailureTaken : Prop :=
  ∀ (s : State) (x : Source),
    let code (y : Source) : Nat := match y with | .sync => 0 | .beacon => 1 | .xo => 2 | .rc => 3
    let fallen (u : State) : State :=
      let target : Source := if s.clock.xo.state = .qualified ∧ (x = .sync ∨ x = .beacon) then .xo else .rc
      let requested := if s.clock.requested = some target then none else s.clock.requested
      { u with clock := { s.clock with
          current := target, lead := 0, clockFail := true, requested := requested, fallbackDue := false } }.notice
        Kind.clockNotice ([1#8] ++ le 6 s.now ++ le 1 (code x) ++ le 1 (code target) ++ le 1 (code target)
          ++ le 1 (match requested with | none => 255 | some y => code y) ++ [1#8, 0xFF#8])
    (s.clock.current ≠ x → sourceFailed x s = s) ∧
    (s.clock.current = x → s.clock.failSafe = false → sourceFailed x s = raiseFault .timebase (code x) s) ∧
    (s.clock.current = x → s.clock.failSafe = true → sourceFailed x s = fallen (raiseFault .timebase (code x) s)) ∧
    (s.held = false → s.clock.current = x → s.clock.fallbackDue = true →
      exec .deferredFallback s = .next (fallen s))

/-- The XO: the 65,536th consecutive cycle, due once 65,535 are counted (log entry 8), qualifies a STARTING XO; a gap sets its
count to 0, and fails a QUALIFIED XO; the end of a window fails a QUALIFIED XO that is off by more than 3 % (245,760 of
8,192,000 cycles) and restarts a FAILED one after a window without a gap within 3 %. -/
def Obligations.XoIsJudged : Prop :=
  ∀ (s : State) (cycles : Nat), s.held = false →
    let x := s.clock.xo
    let moved (y : XoState) : State := { s with clock := { s.clock with xo := y } }
    let good : Prop := 7946240 ≤ cycles ∧ cycles ≤ 8437760
    (x.state = .starting →
      (65535 ≤ x.count → exec .xoQualify s = .next (moved { x with state := .qualified, count := 0 })) ∧
      exec .xoGap s = .next (moved { x with count := 0, windowGap := true }) ∧
      exec (.comparisonWindowEnd cycles) s = .next (moved { x with windowGap := false })) ∧
    (x.state = .qualified →
      exec .xoGap s = .next (sourceFailed .xo (moved { state := .failed, count := 0, windowGap := true })) ∧
      (good → exec (.comparisonWindowEnd cycles) s = .next (moved { x with windowGap := false })) ∧
      (¬ good → exec (.comparisonWindowEnd cycles) s =
        .next (sourceFailed .xo (moved { x with state := .failed, windowGap := false })))) ∧
    (x.state = .failed →
      exec .xoGap s = .next (moved { x with count := 0, windowGap := true }) ∧
      (good → x.windowGap = false → exec (.comparisonWindowEnd cycles) s =
        .next (moved { state := .starting, count := 0, windowGap := false })) ∧
      ((¬ good ∨ x.windowGap = true) → exec (.comparisonWindowEnd cycles) s =
        .next (moved { x with windowGap := false })))

/-- At a whole second of course time the switch to a requested source that is QUALIFIED completes: it becomes current, the
request and the lead are cleared and a CLOCK NOTICE of class completed switch is sent; a source not QUALIFIED keeps
waiting. Off a whole second nothing happens. (That a second's event is taken once is log entry 12;
that a deferred fallback goes before it is log entry 29.) -/
def Obligations.SwitchCompletes : Prop :=
  ∀ s : State, s.held = false →
    let code (y : Source) : Nat := match y with | .sync => 0 | .beacon => 1 | .xo => 2 | .rc => 3
    (s.now % 1000 ≠ 0 → exec .switchCompletion s = .next s) ∧
    (s.now % 1000 = 0 → s.clock.secondTaken ≠ s.now → s.clock.fallbackDue = false →
      (∀ r, s.clock.requested = some r → s.clock.sourceState r = .qualified →
        exec .switchCompletion s = .next ({ s with clock := { s.clock with
            current := r, requested := none, lead := 0, secondTaken := s.now } }.notice Kind.clockNotice
          ([0#8] ++ le 6 s.now ++ le 1 (code s.clock.current) ++ le 1 (code r) ++ le 1 (code r) ++ [0xFF#8]
            ++ le 1 (yesNo s.clock.clockFail) ++ [0xFF#8]))) ∧
      ((∀ r, s.clock.requested = some r → s.clock.sourceState r ≠ .qualified) →
        exec .switchCompletion s = .next { s with clock := { s.clock with secondTaken := s.now } }))

/-- CLOCK SELECT on port C: RANGE, then LOCKED while the lock is set and the clock-fail flag clear; else CANCELLED for the
current source (with a notice of class pending cancelled when there was a request), SCHEDULED for a QUALIFIED one with the
next whole second, WAITING otherwise. The ACK carries the request that stood before. -/
def Obligations.ClockSelectTaken : Prop :=
  ∀ (s : State) (f : Frame) (rest : List Frame) (code : Nat), s.Asks .c f rest →
    f.kind = Kind.clockSelect → Layout.one 1 f.payload = some code →
    let u := s.taken .c rest
    let c := s.clock
    let value (y : Source) : Nat := match y with | .sync => 0 | .beacon => 1 | .xo => 2 | .rc => 3
    let before := le 1 (match c.requested with | none => 255 | some y => value y)
    let locked : Prop := c.lock = true ∧ c.clockFail = false
    (3 < code → exec (.clockSelect .c) s = .next (u.refuse .c f .range)) ∧
    (code ≤ 3 → locked → exec (.clockSelect .c) s = .next (u.refuse .c f .locked)) ∧
    (∀ x, code = value x → ¬ locked →
      (x = c.current → c.requested = none →
        exec (.clockSelect .c) s = .next (u.ack .c f ([0#8] ++ before ++ List.replicate 6 0xFF#8))) ∧
      (∀ old, x = c.current → c.requested = some old →
        exec (.clockSelect .c) s = .next (State.ack ({ u with clock := { c with requested := none } }.notice Kind.clockNotice
            ([2#8] ++ le 6 s.now ++ le 1 (value x) ++ le 1 (value x) ++ le 1 (value x) ++ [0xFF#8]
              ++ le 1 (yesNo c.clockFail) ++ le 1 (value old))) .c f
          ([0#8] ++ before ++ List.replicate 6 0xFF#8))) ∧
      (x ≠ c.current → c.sourceState x = .qualified →
        exec (.clockSelect .c) s = .next (State.ack { u with clock := { c with requested := some x } } .c f
          ([1#8] ++ before ++ le 6 (if s.now % 1000 = 0 ∧ c.secondTaken ≠ s.now then s.now
            else (s.now / 1000 + 1) * 1000)))) ∧
      (x ≠ c.current → c.sourceState x ≠ .qualified →
        exec (.clockSelect .c) s = .next (State.ack { u with clock := { c with requested := some x } } .c f
          ([2#8] ++ before ++ List.replicate 6 0xFF#8))))

/-- CLOCK LOCK sets the lock, CLOCK FAIL CLEAR clears the clock-fail flag whatever the lock, CLOCK SETUP sets the fail-safe
enable and the start target, refused RANGE for other values and LOCKED while the lock is set, whatever the flag; turning
fail-safe on while the current source is FAILED makes the deferred fallback due (kept due until it is taken: log entry 29). -/
def Obligations.ClockRequestsTaken : Prop :=
  ∀ (s : State) (f : Frame) (rest : List Frame), s.Asks .c f rest →
    let u := s.taken .c rest
    (f.kind = Kind.clockLock → f.payload = [] → exec (.clockLock .c) s =
      .next (State.ack { u with clock := { s.clock with lock := true } } .c f ([1#8] ++ le 1 (yesNo s.clock.clockFail)))) ∧
    (f.kind = Kind.clockFailClear → f.payload = [] → exec (.clockFailClear .c) s =
      .next (State.ack { u with clock := { s.clock with clockFail := false } } .c f (le 1 (yesNo s.clock.lock) ++ [0#8]))) ∧
    (∀ enable target : Byte, f.kind = Kind.clockSetup → f.payload = [enable, target] →
      let bad : Prop := (enable ≠ 0#8 ∧ enable ≠ 1#8) ∨ (target ≠ 0#8 ∧ target ≠ 1#8 ∧ target ≠ 2#8)
      (bad → exec (.clockSetup .c) s = .next (u.refuse .c f .range)) ∧
      (¬ bad → s.clock.lock = true → exec (.clockSetup .c) s = .next (u.refuse .c f .locked)) ∧
      (¬ bad → s.clock.lock = false → exec (.clockSetup .c) s =
        .next (State.ack { u with clock := { s.clock with
          failSafe := decide (enable = 1#8)
          fallbackDue := s.clock.fallbackDue || (decide (enable = 1#8) && !s.clock.failSafe &&
            decide (s.clock.sourceState s.clock.current = .failed))
          startTarget := if target = 0#8 then .sync else if target = 1#8 then .beacon else .xo } } .c f
            [enable, target])))

/-- LEAD_SLEW ends a second of the counting oscillator: while the lead is positive, once 999 of its milliseconds are counted,
and it adds none; while the lead is negative, once all 1,000 are, and it adds one. So the second gives 999 or 1,001 ms of
course time, and the lead moves one toward 0. No whole second at which a switch waits is passed over. That the slew falls at
the end of the second is log entry 11; the end of course time is log entry 9. -/
def Obligations.LeadSlews : Prop :=
  ∀ s : State, s.held = false →
    let slewed (added : Nat) (lead : Int) : State :=
      { s with clock := { s.clock with courseTime := s.now + added, oscMs := 0, lead := lead } }
    (0 < s.clock.lead → s.clock.oscMs = 999 → s.now ≤ maxCourseTime →
      exec .leadSlew s = .next (slewed 0 (s.clock.lead - 1))) ∧
    (s.clock.lead < 0 → 1000 ≤ s.clock.oscMs → s.now < maxCourseTime →
      (s.now % 1000 ≠ 0 ∨ s.clock.secondTaken = s.now ∨
        ∀ r, s.clock.requested = some r → s.clock.sourceState r ≠ .qualified) →
      exec .leadSlew s = .next (slewed 1 (s.clock.lead + 1)))

/-! ### Corrections (08) -/

/-- WITHDRAW on port C: RANGE, STATE unless ENTERED, FULL from sequence 4,294,847,295 on; else the record becomes WITHDRAWN,
its open crossing is voided, a VOIDED entry is appended and every board posting of the bib is removed; nothing else
changes. REINSTATE on port C: RANGE, STATE unless WITHDRAWN, FULL from sequence 4,294,847,295 on; else the record becomes
ENTERED with every other field kept and a REINSTATED entry is appended; nothing else changes. -/
def Obligations.WithdrawAndReinstateTaken : Prop :=
  (∀ (s : State) (f : Frame) (rest : List Frame) (bib : Nat), s.Asks .c f rest →
    f.kind = Kind.withdraw → Layout.one 2 f.payload = some bib →
    let u := s.taken .c rest
    let r := (s.dir.record bib).fields
    let kept (lane : List BoardPosting) : List BoardPosting := lane.filter (fun x => x.bib != bib)
    let removed := s.board.lead.countP (fun x => x.bib == bib) + s.board.feat.countP (fun x => x.bib == bib)
      + s.board.flow.countP (fun x => x.bib == bib)
    let refused (why : Reason) : Prop := exec (.withdraw .c) s = .next (u.refuse .c f why)
    let bibOk : Prop := 1 ≤ bib ∧ bib ≤ 60000
    (¬ bibOk → refused .range) ∧
    (bibOk → r.state ≠ .entered → refused .state) ∧
    (bibOk → r.state = .entered → 4294847295 ≤ s.log.newest → refused .full) ∧
    (bibOk → r.state = .entered → s.log.newest < 4294847295 → exec (.withdraw .c) s = .next (State.ack { u with
        dir := s.dir.write bib { r with state := .withdrawn }
        engine := { s.engine with crossings := s.engine.crossings.filter (fun c => c.bib != bib) }
        log := s.log.append .voided bib none none ⟨false, false, false, false, false, false⟩
        board := { s.board with lead := kept s.board.lead, feat := kept s.board.feat, flow := kept s.board.flow } } .c f
      (le 4 (s.log.newest + 1) ++ [if ∃ c ∈ s.engine.crossings, c.bib = bib then 1#8 else 0#8] ++ le 1 removed)))) ∧
  (∀ (s : State) (f : Frame) (rest : List Frame) (bib : Nat), s.Asks .c f rest →
    f.kind = Kind.reinstate → Layout.one 2 f.payload = some bib →
    let u := s.taken .c rest
    let r := (s.dir.record bib).fields
    let refused (why : Reason) : Prop := exec (.reinstate .c) s = .next (u.refuse .c f why)
    let bibOk : Prop := 1 ≤ bib ∧ bib ≤ 60000
    (¬ bibOk → refused .range) ∧
    (bibOk → r.state ≠ .withdrawn → refused .state) ∧
    (bibOk → r.state = .withdrawn → 4294847295 ≤ s.log.newest → refused .full) ∧
    (bibOk → r.state = .withdrawn → s.log.newest < 4294847295 → exec (.reinstate .c) s = .next (State.ack { u with
        dir := s.dir.write bib { r with state := .entered }
        log := s.log.append .reinstated bib none none ⟨false, false, false, false, false, false⟩ } .c f
      (le 4 (s.log.newest + 1) ++ le 1 r.made))))

/-- AMEND on port C: refused in the order of its table; else an AMENDED entry is appended with the figures of the amended
time, the place and the BOTH FEEDS and HELD flags of the newest retained entry of the pass, the record's last crossing
time is written when the pass is its most recent, and the board's postings of the pass take the new figures and the
AMENDED mark (every one of them, where an upset has let the pass be offered more than once: log entry 30). -/
def Obligations.AmendTaken : Prop :=
  ∀ (s : State) (f : Frame) (rest : List Frame) (bib pass time : Nat), s.Asks .c f rest →
    f.kind = Kind.amend → Layout.amend f.payload = some (bib, pass, time) →
    let u := s.taken .c rest
    let r := (s.dir.record bib).fields
    let gun := (s.dir.waveGun r.wave).getD 0
    let refused (why : Reason) : Prop := exec (.amend .c) s = .next (u.refuse .c f why)
    let inRange : Prop := (1 ≤ bib ∧ bib ≤ 60000) ∧ (1 ≤ pass ∧ pass ≤ 2) ∧ pass ≤ s.engine.point.passes
    let inTime (e : Nat) : Prop := gun ≤ time ∧ time ≤ s.now - e ∧ time ≤ 86400000
    let settling : Prop := ∃ c, s.engine.find? bib = some c ∧ c.pass = pass
    let isReference (x : LogEntry) : Prop := x.bib = bib ∧ (∃ y, x.figures = some y ∧ y.pass = pass) ∧
      (x.kind = .posted ∨ x.kind = .manual ∨ x.kind = .amended)
    (¬ inRange → refused .range) ∧
    (inRange → s.clock.epoch = none → refused .state) ∧
    (∀ e, inRange → s.clock.epoch = some e →
      (¬ inTime e → refused .range) ∧
      (inTime e → settling → refused .state) ∧
      (inTime e → ¬ settling → 4294847295 ≤ s.log.newest → refused .full) ∧
      (inTime e → ¬ settling → s.log.newest < 4294847295 → r.made < pass → refused .unknown) ∧
      (∀ reference : Option LogEntry,
        ((∃ before x after, reference = some x ∧ s.log.entries = before ++ x :: after ∧ isReference x ∧
            ∀ y ∈ after, ¬ isReference y) ∨ (reference = none ∧ ∀ y ∈ s.log.entries, ¬ isReference y)) →
        inTime e → ¬ settling → s.log.newest < 4294847295 → pass ≤ r.made →
        let distance := if pass ≤ 1 then s.engine.point.distance1 else s.engine.point.distance2
        let chip := match r.start with | some x => time - x | none => time - gun
        let figs : Figures := ⟨pass, time, time - gun, chip, min 4294967295 (chip * 1000 / distance)⟩
        let place := reference.bind LogEntry.place
        let flags : SplitFlags := ⟨r.featured, (reference.map (fun x => x.flags.bothFeeds)).getD false,
          s.clock.current = .xo ∨ s.clock.current = .rc, false,
          (reference.map (fun x => x.flags.held)).getD false, r.start = none⟩
        let held (x : BoardPosting) : Prop := x.bib = bib ∧ x.pass = pass
        let update (x : BoardPosting) : BoardPosting :=
          if x.bib = bib ∧ x.pass = pass then { x with chipSeconds := chip / 1000, pace := figs.pace, amended := true } else x
        exec (.amend .c) s = .next (State.ack { u with
            dir := if pass = r.made then s.dir.write bib { r with last := some time } else s.dir
            log := s.log.append .amended bib (some figs) place flags
            board := { s.board with
              lead := s.board.lead.map update, feat := s.board.feat.map update, flow := s.board.flow.map update } } .c f
          (le 4 (s.log.newest + 1) ++ le 4 figs.gunSplit ++ le 4 chip ++ le 4 figs.pace ++ le 2 (place.getD 0)
            ++ [if (∃ x ∈ s.board.lead, held x) ∨ (∃ x ∈ s.board.feat, held x) ∨ (∃ x ∈ s.board.flow, held x)
              then 1#8 else 0#8]))))

/-- CROSSING ENTER on port C: refused in the order of its table; else the runner's next pass is posted at once as a MANUAL
entry with the named time, the current source's quality, no feeds seen and no held mark, and answered with what the
posting gave. -/
def Obligations.CrossingEnterTaken : Prop :=
  ∀ (s : State) (f : Frame) (rest : List Frame) (bib time : Nat), s.Asks .c f rest →
    f.kind = Kind.crossingEnter → Layout.crossingEnter f.payload = some (bib, time) →
    let u := s.taken .c rest
    let r := (s.dir.record bib).fields
    let refused (why : Reason) : Prop := exec (.crossingEnter .c) s = .next (u.refuse .c f why)
    let bibOk : Prop := 1 ≤ bib ∧ bib ≤ 60000
    let inTime (e : Nat) : Prop := (∀ gun, s.dir.waveGun r.wave = some gun → gun ≤ time) ∧
      (∀ t, r.last = some t → t ≤ time) ∧ time ≤ s.now - e ∧ time ≤ 86400000
    let ready : Prop := r.state = .entered ∧ (s.dir.waveGun r.wave).isSome ∧ s.engine.find? bib = none ∧
      r.made < s.engine.point.passes
    (¬ bibOk → refused .range) ∧
    (bibOk → s.clock.epoch = none → refused .state) ∧
    (∀ e, bibOk → s.clock.epoch = some e → ¬ inTime e → refused .range) ∧
    (∀ e, bibOk → s.clock.epoch = some e → inTime e → ¬ ready → refused .state) ∧
    (∀ e, bibOk → s.clock.epoch = some e → inTime e → ready →
      let quality : Quality := match s.clock.current with
        | .sync => .exact | .beacon => .tracked | .xo => .holdover | .rc => .localRc
      let posted := post ⟨.manual, bib, r.made + 1, time, quality, false, false⟩ (s.now - e) u
      let x := posted.1
      exec (.crossingEnter .c) s = .next (posted.2.ack .c f
        (le 1 (r.made + 1) ++ le 2 x.place ++ le 4 (s.log.newest + 1) ++ le 4 x.figures.gunSplit
          ++ le 4 x.figures.chipSplit ++ le 4 x.figures.pace ++ le 1 (x.flags.byte false)
          ++ [if x.flags.late then 0#8 else 1#8])))

/-! ### Faults, integrity and status (09) -/

/-- An occurrence of a fault: the count rises, at most to 255; an empty record captures it with a FAULT NOTICE; a record that
holds the kind, or another kind while this one is pending, changes no more; else the kind becomes pending with its first
time and detail. A notice joins port C's transmit queue with tag 0 while fewer than 15 notices wait there; otherwise it is
not placed. The pending set's byte has bit n for kind n. -/
def Obligations.FaultsAreRaised : Prop :=
  (∀ (s : State) (k : FaultKind) (detail : Nat),
    let item := s.faults.set.get k
    let count := min 255 (item.count + 1)
    let opened (pending : Bool) : FaultItem := ⟨count, pending, some (s.now, detail)⟩
    let with_ (i : FaultItem) : State := { s with faults := { s.faults with set := s.faults.set.put k i } }
    let code : Nat := match k with | .setup => 0 | .timebase => 1 | .crossingFull => 2 | .holdFull => 3 | .feed => 4
    (s.faults.record = none →
      let set := s.faults.set.put k (opened item.pending)
      raiseFault k detail s = { s with faults := { s.faults with record := some ⟨k, s.now, detail⟩, set := set } }.notice
        Kind.faultNotice
        ([0#8] ++ le 1 code ++ le 6 s.now ++ le 4 detail ++ le 1 count ++ le 1 set.pendingByte)) ∧
    (∀ r, s.faults.record = some r → (r.kind = k ∨ item.pending = true) →
      raiseFault k detail s = with_ { item with count := count }) ∧
    (∀ r, s.faults.record = some r → r.kind ≠ k → item.pending = false →
      raiseFault k detail s = with_ (opened true))) ∧
  (∀ (s : State) (kind : Byte) (payload : List Byte),
    ((s.port .c).notices < 15 → s.notice kind payload =
      s.setPort .c { s.port .c with tx := (s.port .c).tx ++ [⟨⟨kind, 0#16, payload⟩, false⟩] }) ∧
    (15 ≤ (s.port .c).notices → s.notice kind payload = s)) ∧
  (∀ set : FaultSet,
    let byte := set.pendingByte
    byte < 32 ∧ byte.testBit 0 = set.setup.pending ∧ byte.testBit 1 = set.timebase.pending ∧
    byte.testBit 2 = set.crossingFull.pending ∧ byte.testBit 3 = set.holdFull.pending ∧ byte.testBit 4 = set.feed.pending)

/-- FAULT CLEAR on port C by class, and INTEGRITY SET. Ordinary: the record of the named kind is emptied and the pending kind
of highest priority captured with its first time and detail. Integrity: the integrity record of the named bib is emptied.
RANGE for an unknown class, kind, bib or enable, STATE when the record does not hold what is named. -/
def Obligations.FaultClearTaken : Prop :=
  ∀ (s : State) (f : Frame) (rest : List Frame), s.Asks .c f rest →
    let u := s.taken .c rest
    let held (fu : FaultUnit) : List Byte := [match fu.record.map FaultRecord.kind with
        | some .setup => 0#8 | some .timebase => 1#8 | some .crossingFull => 2#8 | some .holdFull => 3#8 | some .feed => 4#8
        | none => 0xFF#8] ++ le 1 fu.set.pendingByte ++ [if fu.integrity.isSome then 1#8 else 0#8]
    (∀ c, f.kind = Kind.faultClear → Layout.faultClear f.payload = some c →
      let row : Instr := if c.cls = 1 then .faultClearIntegrity .c else .faultClearOrdinary .c
      let refused (why : Reason) : Prop := exec row s = .next (u.refuse .c f why)
      (1 < c.cls → refused .range) ∧
      (c.cls = 0 → 4 < c.kind → refused .range) ∧
      (∀ k, c.cls = 0 → FaultKind.ofCode? c.kind = some k →
        ((∀ r, s.faults.record = some r → r.kind ≠ k) → refused .state) ∧
        (∀ r, s.faults.record = some r → r.kind = k → (∀ j ∈ faultKinds, (s.faults.set.get j).pending = false) →
          let fu := { s.faults with record := none }
          exec row s = .next (State.ack { u with faults := fu } .c f ([0#8] ++ held fu))) ∧
        (∀ r higher next lower time detail, s.faults.record = some r → r.kind = k →
          faultKinds = higher ++ next :: lower → (∀ j ∈ higher, (s.faults.set.get j).pending = false) →
          (s.faults.set.get next).pending = true → (s.faults.set.get next).first = some (time, detail) →
          let fu := { s.faults with
            record := some ⟨next, time, detail⟩
            set := s.faults.set.put next { s.faults.set.get next with pending := false } }
          exec row s = .next (State.ack ({ u with faults := fu }.notice Kind.faultNotice
              ([0#8] ++ (held fu).take 1 ++ le 6 time ++ le 4 detail ++ le 1 (s.faults.set.get next).count
                ++ le 1 fu.set.pendingByte)) .c f ([0#8] ++ held fu)))) ∧
      (c.cls = 1 → (c.bib = 0 ∨ 60000 < c.bib) → refused .range) ∧
      (c.cls = 1 → 1 ≤ c.bib → c.bib ≤ 60000 → (∀ r, s.faults.integrity = some r → r.bib ≠ c.bib) → refused .state) ∧
      (∀ r, c.cls = 1 → 1 ≤ c.bib → c.bib ≤ 60000 → s.faults.integrity = some r → r.bib = c.bib →
        let fu := { s.faults with integrity := none }
        exec row s = .next (State.ack { u with faults := fu } .c f ([1#8] ++ held fu)))) ∧
    (∀ on : Byte, f.kind = Kind.integritySet → f.payload = [on] →
      (on ≠ 0#8 → on ≠ 1#8 → exec (.integritySet .c) s = .next (u.refuse .c f .range)) ∧
      (on = 0#8 ∨ on = 1#8 → exec (.integritySet .c) s =
        .next (State.ack { u with dir := { s.dir with integrityOn := decide (on = 1#8) } } .c f [on])))

/-- FAULT READ and STATUS READ on port C change nothing; their answers are 83 and 179 bytes with the request's kind, and carry
the part's values at the offsets of their layouts: STATUS READ's 179 bytes are given whole. (The count of a source that is
not STARTING: log entry 23. The further failures of an empty integrity record: log entry 27.) -/
def Obligations.FaultsAndStatusRead : Prop :=
  ∀ (s : State) (f : Frame) (rest : List Frame), s.Asks .c f rest → f.payload = [] →
    let u := s.taken .c rest
    (f.kind = Kind.faultRead → ∃ results, exec (.faultRead .c) s = .next (u.ack .c f results) ∧
      let pl := (ackFrame f results).payload
      let field (at_ width : Nat) : List Byte := (pl.drop at_).take width
      let item (k : FaultKind) : List Byte := le 1 (s.faults.set.get k).count ++ le 1 (yesNo (s.faults.set.get k).pending)
        ++ (match (s.faults.set.get k).first with
          | some x => le 6 x.1 ++ le 4 x.2
          | none => List.replicate 6 0xFF#8 ++ [0#8, 0#8, 0#8, 0#8])
      pl.length = 83 ∧
      (s.faults.record = none → field 1 11 = List.replicate 7 0xFF#8 ++ [0#8, 0#8, 0#8, 0#8]) ∧
      (∀ r, s.faults.record = some r → field 1 11 = le 1 r.kind.code ++ le 6 r.time ++ le 4 r.detail) ∧
      (s.faults.integrity = none → field 12 10 = [0#8, 0#8, 0#8] ++ List.replicate 6 0xFF#8 ++ [0#8]) ∧
      (∀ r, s.faults.integrity = some r → field 12 10 = [1#8] ++ le 2 r.bib ++ le 6 r.time ++ le 1 r.further) ∧
      field 22 60 = item .setup ++ item .timebase ++ item .crossingFull ++ item .holdFull ++ item .feed ∧
      field 82 1 = le 1 (yesNo s.dir.integrityOn)) ∧
    (f.kind = Kind.statusRead → ∃ results, exec (.statusRead .c) s = .next (u.ack .c f results) ∧
      let bit (b : Bool) : List Byte := [if b then 1#8 else 0#8]
      let counts (c : OutcomeCounts) : List Byte := le 4 c.queued ++ le 4 c.opened ++ le 4 c.merged ++ le 4 c.held
        ++ le 4 c.stray ++ le 4 c.excess ++ le 4 c.future ++ le 4 c.beforeGun ++ le 4 c.withdrawn ++ le 4 c.barred
        ++ le 4 c.timedOut ++ le 4 c.lost
      let feed (x : FeedState) : List Byte := [match x.link with | .silent => 0#8 | .active => 1#8]
        ++ [match x.mat with | .disarmed => 0#8 | .armed => 1#8] ++ le 2 x.queue.length ++ counts x.counts
      let source (x : Source) : Byte := match x with | .sync => 0#8 | .beacon => 1#8 | .xo => 2#8 | .rc => 3#8
      let state (x : SourceState) : List Byte := [match x with | .starting => 0#8 | .qualified => 1#8 | .failed => 2#8]
      let reference (x : RefState) : List Byte := state x.state ++ le 1 (if x.state = .starting then x.count else 0)
        ++ le 1 (if x.state = .qualified then x.misses else 0)
      (ackFrame f results).payload = [f.kind] ++ feed s.feeds.a ++ feed s.feeds.b
        ++ (le 4 s.ports.a.discards ++ le 4 s.ports.b.discards ++ le 4 s.ports.c.discards ++ le 4 s.ports.d.discards)
        ++ (le 2 s.engine.crossings.length ++ le 1 s.hold.list.length ++ bit s.hold.holdOver ++ le 1 s.hold.release.length)
        ++ (le 4 (match s.log.entries with | e :: _ => e.seq | [] => 0) ++ le 4 s.log.newest)
        ++ (le 1 s.board.lead.length ++ le 1 s.board.feat.length ++ le 2 s.board.flow.length ++ le 2 s.board.banner)
        ++ (bit s.board.lastOffer.isSome ++ le 1 s.board.pattern ++ le 1 s.board.slot ++ le 1 s.board.pageCount)
        ++ (match s.clock.epoch with | none => [0#8] ++ List.replicate 6 0xFF#8 | some e => [1#8] ++ le 6 e)
        ++ le 6 s.now ++ [source s.clock.current, source s.clock.current,
          match s.clock.requested with | none => 0xFF#8 | some r => source r]
        ++ reference s.clock.sync ++ reference s.clock.beacon
        ++ state s.clock.xo.state ++ le 2 (if s.clock.xo.state = .starting then s.clock.xo.count else 0)
        ++ le 2 (s.clock.lead % 65536).toNat
        ++ (bit s.clock.lock ++ bit s.clock.clockFail ++ bit s.clock.failSafe ++ bit s.faults.warm ++ bit s.dir.integrityOn)
        ++ [match s.faults.record.map FaultRecord.kind with
          | some .setup => 0#8 | some .timebase => 1#8 | some .crossingFull => 2#8 | some .holdFull => 3#8 | some .feed => 4#8
          | none => 0xFF#8]
        ++ le 1 s.faults.set.pendingByte ++ bit s.faults.integrity.isSome ∧
      (ackFrame f results).payload.length = 179)

/-! ### Setup, start-up and restart (11) -/

/-- SETUP STORE on port C copies every working setting as it stands and stays in work; the end of the write gives the block
the copy and a matching check code, and places the ACK. -/
def Obligations.SetupIsStored : Prop :=
  ∀ (s : State) (f : Frame) (rest : List Frame),
    (s.Asks .c f rest → f.kind = Kind.setupStore → f.payload = [] →
      let copy : Settings := ⟨s.clock.startTarget, s.clock.failSafe, s.dir.integrityOn, s.engine.point, s.hold.timeout,
        s.board.settings, s.board.rotation⟩
      exec (.setupStore .c) s = .next { s.setPort .c { s.port .c with buffer := rest, inWork := some f } with
        setup := { s.setup with writing := some ⟨copy, s.now⟩ } }) ∧
    (∀ w, s.held = false → s.setup.writing = some w → (s.port .c).inWork = some f →
      exec .setupWriteEnd s = .next (State.ack
        { s.setPort .c { s.port .c with inWork := none } with setup := ⟨⟨w.copy, some w.copy⟩, none⟩ } .c f []))

/-- The oldest frame of a transmit queue leaves it once its last byte is sent; when that is the ACK of a RESTART, the warm
restart becomes due. An accepted RESTART changes nothing but port C's queue: its ACK is placed with the mark that makes
the restart due once it is sent. WARM_RESTART for that cause is taken only when it is due; a pulse's whenever the part is
not held. -/
def Obligations.RestartIsTaken : Prop :=
  (∀ (s : State) (p : Port) (x : TxFrame) (rest : List TxFrame), s.held = false → (s.port p).tx = x :: rest →
    exec (.frameSent p) s = .next { s.setPort p { s.port p with tx := rest } with restartDue := s.restartDue || x.restart }) ∧
  (∀ s : State,
    (∀ f rest, s.Asks .c f rest → f.kind = Kind.restart → f.payload = [] →
      exec (.restart .c) s = .next ((s.taken .c rest).answer .c (ackFrame f []) true)) ∧
    (s.held = false →
      exec (.warmRestart .pulse) s = .next (warmRestart s) ∧
      (s.restartDue = true → exec (.warmRestart .request) s = .next { warmRestart s with restartDue := false }) ∧
      (s.restartDue = false → exec (.warmRestart .request) s = .next s)))

/-- A warm restart: the ports are emptied but for their discard counts; each queued read counts LOST, the links are SILENT and
the mats ARMED; every crossing is kept with the deadline the restart plus the settle window; the board is emptied and
QUIET; the warm flag is set; a setup write is cut; the hold list's entries have a fresh entered at. Directory, log and
timebase are kept. The reads of the release queue return to the hold list one at a time, oldest first: merged into an
entry of their chip code, else placed behind those already returned and ahead of the entries kept, else, with 64 entries,
discarded LOST with HOLD FULL. -/
def Obligations.WarmRestartActs : Prop :=
  (∀ s : State,
    let port (x : PortState) : PortState := { x with line := [], buffer := [], inWork := none, tx := [] }
    let feed (x : FeedState) : FeedState := ⟨.silent, none, .armed, [],
      { x.counts with lost := min 4294967295 (x.counts.lost + x.queue.length) }⟩
    warmRestart s = restartHold { s with
      ports := ⟨port s.ports.a, port s.ports.b, port s.ports.c, port s.ports.d⟩
      feeds := ⟨feed s.feeds.a, feed s.feeds.b⟩
      engine := { s.engine with
        crossings := s.engine.crossings.map (fun c => { c with deadline := s.now + s.engine.point.settleWindow })
        nextTurn := .feedA }
      board := { s.board with
        lead := [], feat := [], flow := [], banner := 0, lastOffer := none, pattern := 0, slot := 0, pageCount := 0 }
      faults := { s.faults with warm := true }
      setup := if s.setup.writing = none then s.setup else ⟨{ s.setup.block with codedFor := none }, none⟩ }) ∧
  (∀ (s : State) (returned : List HoldEntry) (r : ReleasedRead),
    let listed := returned ++ s.hold.list
    let merge (e : HoldEntry) : HoldEntry := if e.chip = r.chip then { e with
      time := min e.time r.time, quality := e.quality.worse r.quality, count := min 255 (e.count + r.count)
      releasing := true } else e
    ((∃ e ∈ listed, e.chip = r.chip) → returnRead (returned, s) r =
      (returned.map merge, { s with hold := { s.hold with list := s.hold.list.map merge } })) ∧
    ((∀ e ∈ listed, e.chip ≠ r.chip) → listed.length < 64 → returnRead (returned, s) r =
      (returned ++ [⟨r.chip, r.reason, r.feed, r.time, r.quality, r.count, s.now, true⟩], s)) ∧
    ((∀ e ∈ listed, e.chip ≠ r.chip) → 64 ≤ listed.length → returnRead (returned, s) r =
      (returned, raiseFault .holdFull r.chip
        { s.count r.feed .lost with hold := { s.hold with holdOver := true } })) ∧
    (let kept := s.hold.list.map (fun e => { e with enteredAt := s.now })
     let end_ := s.hold.release.foldl returnRead ([], { s with hold := { s.hold with list := kept, release := [] } })
     restartHold s = { end_.2 with hold := { end_.2.hold with list := end_.1 ++ end_.2.hold.list } }))

/-- COLD_RESET gives every block its initial state, keeps the setup block (cut when a write was under way), reads the straps
and holds the part; the rising edge releases it and loads the working settings: the block's when it passes its check, else
every default with SETUP raised. The state that a cold reset gives (the settings, before the load, at their defaults: log
entry 20; log entry 26 for what the manual gives no value). -/
def Obligations.ColdResetActs : Prop :=
  (∀ (s : State) (strap1 strap0 : Bool),
    let rate : LineRate := match strap1, strap0 with
      | false, false => .baud115200 | false, true => .baud460800 | true, false => .baud921600 | true, true => .baud2000000
    let block : SetupBlock := if s.setup.writing = none then s.setup.block else { s.setup.block with codedFor := none }
    exec (.coldReset strap1 strap0) s =
      .next { State.cold rate block with pending := s.pending, choices := s.choices } ∧
    (s.held = false → exec .resetRisingEdge s = .next s) ∧
    (s.held = true →
      let loaded (x : Settings) : State := { s with
        held := false
        clock := { s.clock with startTarget := x.startTarget, failSafe := x.failSafe
                                requested := some (match x.startTarget with | .sync => .sync | .beacon => .beacon | .xo => .xo) }
        dir := { s.dir with integrityOn := x.integrityOn }
        engine := { s.engine with point := x.point }
        hold := { s.hold with timeout := x.holdTimeout }
        board := { s.board with settings := x.board, rotation := x.rotation } }
      (s.setup.block.codedFor = some s.setup.block.items → exec .resetRisingEdge s = .next (loaded s.setup.block.items)) ∧
      (s.setup.block.codedFor ≠ some s.setup.block.items → exec .resetRisingEdge s = .next (raiseFault .setup 0 (loaded
        ⟨.xo, true, true, ⟨1, 21098, 42195, 8000, 40, 120⟩, 15, ⟨8, 6, 4, 1, 3, 60⟩,
          [⟨.leaders, 10⟩, ⟨.featured, 6⟩, ⟨.flow, 20⟩, ⟨.clock, 4⟩]⟩))))) ∧
  (∀ (rate : LineRate) (block : SetupBlock),
    let s := State.cold rate block
    s.held = true ∧ s.lineRate = rate ∧ s.setup = ⟨block, none⟩ ∧ s.restartDue = false ∧
    s.engine.point = ⟨1, 21098, 42195, 8000, 40, 120⟩ ∧ s.hold.timeout = 15 ∧ s.board.settings = ⟨8, 6, 4, 1, 3, 60⟩ ∧
    s.board.rotation = [⟨.leaders, 10⟩, ⟨.featured, 6⟩, ⟨.flow, 20⟩, ⟨.clock, 4⟩] ∧ s.dir.integrityOn = true ∧
    s.clock.failSafe = true ∧ s.clock.startTarget = .xo ∧ s.clock.requested = none ∧
    s.clock.oscMs = 0 ∧ s.clock.secondTaken = 0 ∧ s.clock.fallbackDue = false ∧ s.clock.xo.windowGap = false ∧
    (∀ p, (s.port p).lastByteAt = 0) ∧
    (∀ p, (s.port p).line = [] ∧ (s.port p).buffer = [] ∧ (s.port p).inWork = none ∧ (s.port p).tx = [] ∧
      (s.port p).discards = 0) ∧
    (∀ x o, (s.feed x).link = .silent ∧ (s.feed x).lastFrame = none ∧ (s.feed x).mat = .armed ∧ (s.feed x).queue = [] ∧
      (s.feed x).counts.get o = 0) ∧
    (∀ bib, (s.dir.record bib).fields = ⟨.empty, false, 0, 0, false, 0, none, 0, none⟩ ∧ (s.dir.record bib).passes = true) ∧
    s.dir.aliasMap = [] ∧ (∀ w, s.dir.waveGun w = none) ∧ (∀ p d, s.dir.place p d = 0) ∧
    s.engine.crossings = [] ∧ s.engine.nextTurn = .feedA ∧
    s.hold.list = [] ∧ s.hold.release = [] ∧ s.hold.holdOver = false ∧
    s.log.entries = [] ∧ s.log.newest = 0 ∧ s.log.oldest = 0 ∧
    s.board.lead = [] ∧ s.board.feat = [] ∧ s.board.flow = [] ∧ s.board.banner = 0 ∧ s.board.lastOffer = none ∧
    s.board.pattern = 0 ∧ s.board.slot = 0 ∧ s.board.pageCount = 0 ∧
    s.now = 0 ∧ s.clock.epoch = none ∧
    (∀ r, (s.clock.ref r).state = .starting ∧ (s.clock.ref r).count = 0 ∧ (s.clock.ref r).reference = none ∧
      (s.clock.ref r).watch = 1500) ∧
    s.clock.xo.state = .starting ∧ s.clock.xo.count = 0 ∧ s.clock.current = .rc ∧ s.clock.lead = 0 ∧
    s.clock.lock = false ∧ s.clock.clockFail = false ∧
    s.faults.record = none ∧ s.faults.integrity = none ∧ s.faults.warm = false ∧
    (∀ k, s.faults.set.get k = ⟨0, false, none⟩))

/-! ### Frames and layouts (10, 12) -/

/-- A frame written on the line is recognised whole, whatever follows; until its last CRC byte it is being assembled; with
another CRC it is a CRC discard, and with a length outside 3 to 1,020 a length discard. Hunting passes over every byte up to
the next start byte. -/
def Obligations.FramesAreRecognised : Prop :=
  ∀ (f : Frame) (rest : List Byte),
    (f.payload.length ≤ 1017 →
      f.wire.length = f.payload.length + 8 ∧ f.wire.head? = some 0xC3#8 ∧
      scan (f.wire ++ rest) = .arrived f rest ∧
      (∀ n, n < f.wire.length → scan (f.wire.take n) = .partialFrame) ∧
      (∀ w : BitVec 16, w ≠ crc (le 2 f.content.length ++ f.content) →
        scan (0xC3#8 :: le 2 f.content.length ++ f.content ++ le 2 w.toNat ++ rest) = .badCrc)) ∧
    (∀ n, n < 65536 → (n < 3 ∨ 1020 < n) → scan (0xC3#8 :: le 2 n ++ rest) = .badLength) ∧
    (hunt [] = [] ∧ hunt (0xC3#8 :: rest) = 0xC3#8 :: rest ∧ ∀ b : Byte, b ≠ 0xC3#8 → hunt (b :: rest) = hunt rest)

/-- The fields of every request layout, written least significant byte first in the order and widths of its table, are read
back as they were: no field is dropped and no two are confused. -/
def Obligations.RequestLayoutsReadBack : Prop :=
  (∀ v, v < 256 → Layout.one 1 (le 1 v) = some v) ∧
  (∀ v, v < 65536 → Layout.one 2 (le 2 v) = some v) ∧
  (∀ v, v < 4294967296 → Layout.one 4 (le 4 v) = some v) ∧
  (∀ (clockless : Bool) (q : Nat) (reads : List (Nat × Nat)), q < 8 → reads.length < 256 →
    (∀ r ∈ reads, r.1 < 4294967296 ∧ r.2 < 4294967296 ∧ (clockless = true → r.2 = 0)) →
    Layout.report (le 1 reads.length ++ le 1 (2 * q + yesNo clockless) ++ reads.flatMap (fun r => le 4 r.1 ++ le 4 r.2))
      = some ⟨clockless, q, reads⟩) ∧
  (∀ rs : List Layout.LoadRecord, rs.length < 256 →
    (∀ r ∈ rs, r.bib < 65536 ∧ r.wave < 256 ∧ r.division < 256 ∧ r.featured < 256 ∧ r.nameTag < 65536 ∧
      ∀ t ∈ r.start, t < 4294967296) →
    Layout.runnerLoad (le 1 rs.length ++ [0#8] ++ rs.flatMap (fun r => le 2 r.bib ++ le 1 r.wave ++ le 1 r.division
      ++ le 1 r.featured ++ le 1 (yesNo r.start.isSome) ++ le 2 r.nameTag ++ le 4 (r.start.getD 0))) = some rs) ∧
  (∀ chip bib, chip < 4294967296 → bib < 65536 → Layout.aliasSet (le 4 chip ++ le 2 bib) = some (chip, bib)) ∧
  (∀ wave (gun : Option Nat), wave < 256 → (∀ g ∈ gun, g < 4294967296) →
    Layout.waveStart (le 1 wave ++ le 1 (yesNo gun.isSome) ++ le 4 (gun.getD 0)) = some (wave, gun)) ∧
  (∀ wave gun, wave < 256 → gun < 4294967296 → Layout.waveSet (le 1 wave ++ [0#8] ++ le 4 gun) = some (wave, gun)) ∧
  (∀ x : PointSettings, x.passes < 256 → x.distance1 < 65536 → x.distance2 < 65536 → x.settleWindow < 4294967296 →
    x.rearmGap < 65536 → x.lateLimit < 65536 →
    Layout.pointSet (le 1 x.passes ++ [0#8] ++ le 2 x.distance1 ++ le 2 x.distance2 ++ le 4 x.settleWindow ++ le 2 x.rearmGap
      ++ le 2 x.lateLimit) = some x) ∧
  (∀ x : Layout.Resolve, x.chip < 4294967296 → x.resolution < 256 → x.bib < 65536 → (x.resolution = 1 → x.bib = 0) →
    Layout.holdResolve (le 4 x.chip ++ le 1 x.resolution ++ [0#8] ++ le 2 x.bib) = some x) ∧
  (∀ x : BoardSettings, x.rows < 256 → x.dwellLead < 256 → x.dwellFeat < 256 → x.dwellFlow < 256 → x.leadDepth < 256 →
    x.quietInterval < 65536 →
    Layout.boardSet (le 1 x.rows ++ le 1 x.dwellLead ++ le 1 x.dwellFeat ++ le 1 x.dwellFlow ++ le 1 x.leadDepth ++ [0#8]
      ++ le 2 x.quietInterval) = some x) ∧
  (∀ slots : List (Nat × Nat), slots.length < 256 → (∀ e ∈ slots, e.1 < 256 ∧ e.2 < 256) →
    Layout.rotationSet (le 1 slots.length ++ [0#8] ++ slots.flatMap (fun e => le 1 e.1 ++ le 1 e.2)) = some slots) ∧
  (∀ offset : Option Nat, (∀ o ∈ offset, o < 4294967296) →
    Layout.gunSet (le 1 (yesNo offset.isSome) ++ le 4 (offset.getD 0)) = some offset) ∧
  (∀ enable target, enable < 256 → target < 256 → Layout.clockSetup (le 1 enable ++ le 1 target) = some (enable, target)) ∧
  (∀ bib pass time, bib < 65536 → pass < 256 → time < 4294967296 →
    Layout.amend (le 2 bib ++ le 1 pass ++ [0#8] ++ le 4 time) = some (bib, pass, time)) ∧
  (∀ bib time, bib < 65536 → time < 4294967296 →
    Layout.crossingEnter (le 2 bib ++ [0#8, 0#8] ++ le 4 time) = some (bib, time)) ∧
  (∀ x : Layout.Clear, x.cls < 256 → x.kind < 256 → x.bib < 65536 → (x.cls = 0 → x.bib = 0) → (x.cls = 1 → x.kind = 0) →
    Layout.faultClear (le 1 x.cls ++ le 1 x.kind ++ le 2 x.bib) = some x)

/-- Content that does not fit its layout is not read: a wrong length, a count that does not match the length, padding or
unused bits that are not zero, a presence byte other than 0 or 1, an absent field that is not zero, and the fields that a
given case declares zero. -/
def Obligations.UnfitContentIsRejected : Prop :=
  ∀ (b : Byte) (pl : List Byte),
    (pl ≠ [] → Layout.empty pl = none) ∧
    (∀ n, pl.length ≠ n → Layout.one n pl = none) ∧
    (pl.length ≠ 2 + 8 * u8 0 pl → Layout.report pl = none) ∧
    (pl.length ≠ 2 + 12 * u8 0 pl → Layout.runnerLoad pl = none) ∧
    (pl.length ≠ 2 + 2 * u8 0 pl → Layout.rotationSet pl = none) ∧
    (pl.length ≠ 6 → Layout.aliasSet pl = none ∧ Layout.waveStart pl = none ∧ Layout.waveSet pl = none) ∧
    (pl.length ≠ 14 → Layout.pointSet pl = none) ∧
    (pl.length ≠ 8 → Layout.holdResolve pl = none ∧ Layout.boardSet pl = none ∧ Layout.amend pl = none ∧
      Layout.crossingEnter pl = none) ∧
    (pl.length ≠ 5 → Layout.gunSet pl = none) ∧
    (pl.length ≠ 2 → Layout.clockSetup pl = none) ∧
    (pl.length ≠ 4 → Layout.faultClear pl = none) ∧
    (b ≠ 0#8 →
      (∀ n, Layout.runnerLoad (n :: b :: pl) = none) ∧ (∀ w, Layout.waveSet (w :: b :: pl) = none) ∧
      (∀ x, Layout.pointSet (x :: b :: pl) = none) ∧ (∀ n, Layout.rotationSet (n :: b :: pl) = none) ∧
      (∀ c0 c1 c2 c3 r, Layout.holdResolve (c0 :: c1 :: c2 :: c3 :: r :: b :: pl) = none) ∧
      (∀ x0 x1 x2 x3 x4, Layout.boardSet (x0 :: x1 :: x2 :: x3 :: x4 :: b :: pl) = none) ∧
      (∀ x0 x1 p, Layout.amend (x0 :: x1 :: p :: b :: pl) = none) ∧
      (∀ x0 x1 z, Layout.crossingEnter (x0 :: x1 :: b :: z :: pl) = none ∧
        Layout.crossingEnter (x0 :: x1 :: z :: b :: pl) = none)) ∧
    (16 ≤ b.toNat → ∀ n, Layout.report (n :: b :: pl) = none) ∧
    (b ≠ 0#8 → b ≠ 1#8 → (∀ w, Layout.waveStart (w :: b :: pl) = none) ∧ Layout.gunSet (b :: pl) = none) ∧
    (leNat pl ≠ 0 → (∀ w, Layout.waveStart (w :: 0#8 :: pl) = none) ∧ Layout.gunSet (0#8 :: pl) = none) ∧
    (leNat pl ≠ 0 → ∀ c0 c1 c2 c3, Layout.holdResolve (c0 :: c1 :: c2 :: c3 :: 1#8 :: 0#8 :: pl) = none) ∧
    (leNat pl ≠ 0 → ∀ k, Layout.faultClear (0#8 :: k :: pl) = none) ∧
    (b ≠ 0#8 → Layout.faultClear (1#8 :: b :: pl) = none) ∧
    (∀ i, i < u8 0 pl → u8 1 pl % 2 = 1 → u32 (8 * i + 6) pl ≠ 0 → Layout.report pl = none) ∧
    (∀ i, i < u8 0 pl → u8 (12 * i + 7) pl ≠ 0 → u8 (12 * i + 7) pl ≠ 1 → Layout.runnerLoad pl = none) ∧
    (∀ i, i < u8 0 pl → u8 (12 * i + 7) pl = 0 → u32 (12 * i + 10) pl ≠ 0 → Layout.runnerLoad pl = none)

/-! ### What every step keeps -/

/-- Ports stay within their bounds: 4 frames buffered, 4 answers, and 15 notices on port C alone. -/
def Obligations.PortsStayInBounds : Prop :=
  ∀ s t : State, s.PortsOk → step s = .next t → t.PortsOk

/-- Every store stays within its capacity and in its form: the tables of the runner directory, alias map, open crossings, hold
list and release queue, log, lanes, feed queues. -/
def Obligations.StoresStayInBounds : Prop :=
  ∀ s t : State, s.StoresOk → step s = .next t → t.StoresOk

/-- The fault unit stays consistent: nothing is pending behind an empty record, and the held kind is not pending. -/
def Obligations.FaultUnitStaysConsistent : Prop :=
  ∀ s t : State, s.faults.Ok → step s = .next t → t.faults.Ok

/-- The timebase stays in its ranges, and never requests the source that is current. -/
def Obligations.ClockStaysConsistent : Prop :=
  ∀ s t : State, s.ClockOk → step s = .next t → t.ClockOk

/-- Working settings stay in their ranges, and the rotation at a slot of its list below its hold count. -/
def Obligations.SettingsStayInRange : Prop :=
  ∀ s t : State, s.SettingsOk → step s = .next t → t.SettingsOk

/-- While the race clock is UNSET no read waits and no crossing is open, so race time exists at every judgement. -/
def Obligations.NothingWaitsBeforeTheGun : Prop :=
  ∀ s t : State, s.QuietBeforeGun → step s = .next t → t.QuietBeforeGun

/-- Course time never decreases and the race epoch stands, except by a cold reset. -/
def Obligations.TimeNeverGoesBack : Prop :=
  ∀ s t : State, (∀ a b rest, s.pending ≠ .coldReset a b :: rest) → step s = .next t →
    s.now ≤ t.now ∧ (∀ e, s.clock.epoch = some e → t.clock.epoch = some e)

/-- The machine right after reset meets every invariant, and is what a cold reset and the rising edge give (the new part of
log entries 6 and 7). -/
def Obligations.ResetMeetsTheInvariants : Prop :=
  State.reset.PortsOk ∧ State.reset.StoresOk ∧ State.reset.faults.Ok ∧ State.reset.ClockOk ∧
    State.reset.SettingsOk ∧ State.reset.QuietBeforeGun ∧
    ∃ s, exec (.coldReset false false) { State.reset with setup := ⟨SetupBlock.unwritten, none⟩ } = .next s ∧
      exec .resetRisingEdge s = .next State.reset
end

