-- ==== Sys2Proof/Laws/Fields.lean ====
section
/-! SUPPORT. Fields of a payload: what is written little-endian is read back, at every offset; and lists of items of one size. -/

namespace Sys2Proof.Machine

-- One declaration after another: waiting threads would each hold a stack.
set_option Elab.async false

@[simp] theorem le_length (n v : Nat) : (le n v).length = n := by
  induction n generalizing v with
  | zero => rfl
  | succ n ih => simp [le, ih]

/-- A number that fits its field is read back. -/
theorem leNat_le (n v : Nat) (h : v < 256 ^ n) : leNat (le n v) = v := by
  induction n generalizing v with
  | zero =>
    have hv : v = 0 := by simpa using h
    subst hv
    rfl
  | succ n ih =>
    rw [le, leNat, ih]
    · simp only [BitVec.toNat_ofNat]
      omega
    · rw [pow_succ] at h
      exact Nat.div_lt_of_lt_mul (by omega)

theorem fieldAt_le (n v : Nat) (tail : List Byte) (h : v < 256 ^ n) : fieldAt n 0 (le n v ++ tail) = v := by
  unfold fieldAt
  rw [List.drop_zero, List.take_append_of_le_length (by simp), List.take_of_length_le (by simp), leNat_le n v h]

theorem fieldAt_le_end (n v : Nat) (h : v < 256 ^ n) : fieldAt n 0 (le n v) = v := by
  have e := fieldAt_le n v [] h
  rwa [List.append_nil] at e

/-- A field behind `k` bytes. -/
theorem fieldAt_skip (n : Nat) {a k : Nat} {x : List Byte} (tail : List Byte) (hk : x.length = k) (ha : k ≤ a) :
    fieldAt n a (x ++ tail) = fieldAt n (a - k) tail := by
  unfold fieldAt
  rw [List.drop_append, List.drop_eq_nil_of_le (by omega), List.nil_append, hk]

theorem fieldAt_skip_le (n : Nat) {a m : Nat} (v : Nat) (tail : List Byte) (ha : m ≤ a) :
    fieldAt n a (le m v ++ tail) = fieldAt n (a - m) tail :=
  fieldAt_skip n tail (le_length m v) ha

theorem fieldAt_cons (n a : Nat) (b : Byte) (tail : List Byte) : fieldAt n (a + 1) (b :: tail) = fieldAt n a tail := rfl

theorem fieldAt_byte (b : Byte) (tail : List Byte) : fieldAt 1 0 (b :: tail) = b.toNat := by simp [fieldAt, leNat]

/-- A flat list of items of one size is cut into its items. -/
theorem items_flatMap {α : Type} (g : α → List Byte) {n : Nat} (h : ∀ a, (g a).length = n) (l : List α) :
    items n l.length (l.flatMap g) = l.map g := by
  induction l with
  | nil => rfl
  | cons a l ih =>
    simp only [List.length_cons, items, List.flatMap_cons, List.map_cons]
    rw [List.take_append_of_le_length (by rw [h]), List.take_of_length_le (by rw [h]), List.drop_append,
      List.drop_eq_nil_of_le (by rw [h]), h, Nat.sub_self, List.drop_zero, List.nil_append, ih]

/-- An optional time is read back from its presence byte and field. -/
theorem optional_some (o : Option Nat) : optional (yesNo o.isSome) (o.getD 0) = some o := by
  cases o <;> simp [optional, yesNo]

theorem yesNo_lt (b : Bool) : yesNo b < 2 := by cases b <;> decide

end Sys2Proof.Machine
end

