-- ==== Sys2Proof/Laws/State.lean ====
section
/-! SUPPORT. One lemma per field per update: what `setPort`, `setFeed`, the notices and answers, the counts, the faults, the checked
read, the hold and the posting leave as it was. -/

namespace Sys2Proof.Machine

-- One declaration after another: waiting threads would each hold a stack.
set_option Elab.async false

/-! ### Ports -/

@[simp] theorem Ports.get_set_same (x : Ports) (p : Port) (ps : PortState) : (x.set p ps).get p = ps := by cases p <;> rfl

theorem Ports.get_set_other (x : Ports) {p q : Port} (ps : PortState) (h : q ≠ p) : (x.set p ps).get q = x.get q := by
  cases p <;> cases q <;> first | rfl | exact absurd rfl h

@[simp] theorem Ports.set_set (x : Ports) (p : Port) (u v : PortState) : (x.set p u).set p v = x.set p v := by
  cases p <;> rfl

@[simp] theorem Ports.set_get (x : Ports) (p : Port) : x.set p (x.get p) = x := by cases p <;> rfl

@[simp] theorem setPort_port_same (s : State) (p : Port) (ps : PortState) : (s.setPort p ps).port p = ps :=
  Ports.get_set_same _ _ _

theorem setPort_port_other (s : State) {p q : Port} (ps : PortState) (h : q ≠ p) : (s.setPort p ps).port q = s.port q :=
  Ports.get_set_other _ _ h

@[simp] theorem setPort_ports (s : State) (p : Port) (ps : PortState) : (s.setPort p ps).ports = s.ports.set p ps := rfl

@[simp] theorem setPort_lineRate (s : State) (p : Port) (ps : PortState) : (s.setPort p ps).lineRate = s.lineRate := rfl
@[simp] theorem setPort_feeds (s : State) (p : Port) (ps : PortState) : (s.setPort p ps).feeds = s.feeds := rfl
@[simp] theorem setPort_dir (s : State) (p : Port) (ps : PortState) : (s.setPort p ps).dir = s.dir := rfl
@[simp] theorem setPort_engine (s : State) (p : Port) (ps : PortState) : (s.setPort p ps).engine = s.engine := rfl
@[simp] theorem setPort_hold (s : State) (p : Port) (ps : PortState) : (s.setPort p ps).hold = s.hold := rfl
@[simp] theorem setPort_log (s : State) (p : Port) (ps : PortState) : (s.setPort p ps).log = s.log := rfl
@[simp] theorem setPort_board (s : State) (p : Port) (ps : PortState) : (s.setPort p ps).board = s.board := rfl
@[simp] theorem setPort_clock (s : State) (p : Port) (ps : PortState) : (s.setPort p ps).clock = s.clock := rfl
@[simp] theorem setPort_faults (s : State) (p : Port) (ps : PortState) : (s.setPort p ps).faults = s.faults := rfl
@[simp] theorem setPort_setup (s : State) (p : Port) (ps : PortState) : (s.setPort p ps).setup = s.setup := rfl
@[simp] theorem setPort_held (s : State) (p : Port) (ps : PortState) : (s.setPort p ps).held = s.held := rfl
@[simp] theorem setPort_restartDue (s : State) (p : Port) (ps : PortState) : (s.setPort p ps).restartDue = s.restartDue := rfl
@[simp] theorem setPort_choices (s : State) (p : Port) (ps : PortState) : (s.setPort p ps).choices = s.choices := rfl
@[simp] theorem setPort_pending (s : State) (p : Port) (ps : PortState) : (s.setPort p ps).pending = s.pending := rfl

/-! ### Feeds -/

@[simp] theorem Feeds.get_set_same (x : Feeds) (f : Feed) (fs : FeedState) : (x.set f fs).get f = fs := by cases f <;> rfl

theorem Feeds.get_set_other (x : Feeds) {f g : Feed} (fs : FeedState) (h : g ≠ f) : (x.set f fs).get g = x.get g := by
  cases f <;> cases g <;> first | rfl | exact absurd rfl h

@[simp] theorem Feeds.set_get (x : Feeds) (f : Feed) : x.set f (x.get f) = x := by cases f <;> rfl

@[simp] theorem setFeed_feed_same (s : State) (f : Feed) (fs : FeedState) : (s.setFeed f fs).feed f = fs :=
  Feeds.get_set_same _ _ _

theorem setFeed_feed_other (s : State) {f g : Feed} (fs : FeedState) (h : g ≠ f) : (s.setFeed f fs).feed g = s.feed g :=
  Feeds.get_set_other _ _ h

@[simp] theorem setFeed_feeds (s : State) (f : Feed) (fs : FeedState) : (s.setFeed f fs).feeds = s.feeds.set f fs := rfl

@[simp] theorem setFeed_ports (s : State) (f : Feed) (fs : FeedState) : (s.setFeed f fs).ports = s.ports := rfl
@[simp] theorem setFeed_lineRate (s : State) (f : Feed) (fs : FeedState) : (s.setFeed f fs).lineRate = s.lineRate := rfl
@[simp] theorem setFeed_dir (s : State) (f : Feed) (fs : FeedState) : (s.setFeed f fs).dir = s.dir := rfl
@[simp] theorem setFeed_engine (s : State) (f : Feed) (fs : FeedState) : (s.setFeed f fs).engine = s.engine := rfl
@[simp] theorem setFeed_hold (s : State) (f : Feed) (fs : FeedState) : (s.setFeed f fs).hold = s.hold := rfl
@[simp] theorem setFeed_log (s : State) (f : Feed) (fs : FeedState) : (s.setFeed f fs).log = s.log := rfl
@[simp] theorem setFeed_board (s : State) (f : Feed) (fs : FeedState) : (s.setFeed f fs).board = s.board := rfl
@[simp] theorem setFeed_clock (s : State) (f : Feed) (fs : FeedState) : (s.setFeed f fs).clock = s.clock := rfl
@[simp] theorem setFeed_faults (s : State) (f : Feed) (fs : FeedState) : (s.setFeed f fs).faults = s.faults := rfl
@[simp] theorem setFeed_setup (s : State) (f : Feed) (fs : FeedState) : (s.setFeed f fs).setup = s.setup := rfl
@[simp] theorem setFeed_held (s : State) (f : Feed) (fs : FeedState) : (s.setFeed f fs).held = s.held := rfl
@[simp] theorem setFeed_restartDue (s : State) (f : Feed) (fs : FeedState) : (s.setFeed f fs).restartDue = s.restartDue := rfl
@[simp] theorem setFeed_choices (s : State) (f : Feed) (fs : FeedState) : (s.setFeed f fs).choices = s.choices := rfl
@[simp] theorem setFeed_pending (s : State) (f : Feed) (fs : FeedState) : (s.setFeed f fs).pending = s.pending := rfl

/-! ### Counts and the waiting status -/

@[simp] theorem count_ports (s : State) (f : Feed) (o : ReadOutcome) : (s.count f o).ports = s.ports := rfl
@[simp] theorem count_lineRate (s : State) (f : Feed) (o : ReadOutcome) : (s.count f o).lineRate = s.lineRate := rfl
@[simp] theorem count_dir (s : State) (f : Feed) (o : ReadOutcome) : (s.count f o).dir = s.dir := rfl
@[simp] theorem count_engine (s : State) (f : Feed) (o : ReadOutcome) : (s.count f o).engine = s.engine := rfl
@[simp] theorem count_hold (s : State) (f : Feed) (o : ReadOutcome) : (s.count f o).hold = s.hold := rfl
@[simp] theorem count_log (s : State) (f : Feed) (o : ReadOutcome) : (s.count f o).log = s.log := rfl
@[simp] theorem count_board (s : State) (f : Feed) (o : ReadOutcome) : (s.count f o).board = s.board := rfl
@[simp] theorem count_clock (s : State) (f : Feed) (o : ReadOutcome) : (s.count f o).clock = s.clock := rfl
@[simp] theorem count_faults (s : State) (f : Feed) (o : ReadOutcome) : (s.count f o).faults = s.faults := rfl
@[simp] theorem count_setup (s : State) (f : Feed) (o : ReadOutcome) : (s.count f o).setup = s.setup := rfl
@[simp] theorem count_held (s : State) (f : Feed) (o : ReadOutcome) : (s.count f o).held = s.held := rfl
@[simp] theorem count_restartDue (s : State) (f : Feed) (o : ReadOutcome) : (s.count f o).restartDue = s.restartDue := rfl
@[simp] theorem count_choices (s : State) (f : Feed) (o : ReadOutcome) : (s.count f o).choices = s.choices := rfl
@[simp] theorem count_pending (s : State) (f : Feed) (o : ReadOutcome) : (s.count f o).pending = s.pending := rfl

@[simp] theorem updateFeed_ports (s : State) (f : Feed) (fs : FeedState) : (s.updateFeed f fs).ports = s.ports := by
  unfold State.updateFeed; split <;> rfl
@[simp] theorem updateFeed_lineRate (s : State) (f : Feed) (fs : FeedState) : (s.updateFeed f fs).lineRate = s.lineRate := by
  unfold State.updateFeed; split <;> rfl
@[simp] theorem updateFeed_dir (s : State) (f : Feed) (fs : FeedState) : (s.updateFeed f fs).dir = s.dir := by
  unfold State.updateFeed; split <;> rfl
@[simp] theorem updateFeed_hold (s : State) (f : Feed) (fs : FeedState) : (s.updateFeed f fs).hold = s.hold := by
  unfold State.updateFeed; split <;> rfl
@[simp] theorem updateFeed_log (s : State) (f : Feed) (fs : FeedState) : (s.updateFeed f fs).log = s.log := by
  unfold State.updateFeed; split <;> rfl
@[simp] theorem updateFeed_board (s : State) (f : Feed) (fs : FeedState) : (s.updateFeed f fs).board = s.board := by
  unfold State.updateFeed; split <;> rfl
@[simp] theorem updateFeed_clock (s : State) (f : Feed) (fs : FeedState) : (s.updateFeed f fs).clock = s.clock := by
  unfold State.updateFeed; split <;> rfl
@[simp] theorem updateFeed_faults (s : State) (f : Feed) (fs : FeedState) : (s.updateFeed f fs).faults = s.faults := by
  unfold State.updateFeed; split <;> rfl
@[simp] theorem updateFeed_setup (s : State) (f : Feed) (fs : FeedState) : (s.updateFeed f fs).setup = s.setup := by
  unfold State.updateFeed; split <;> rfl
@[simp] theorem updateFeed_held (s : State) (f : Feed) (fs : FeedState) : (s.updateFeed f fs).held = s.held := by
  unfold State.updateFeed; split <;> rfl
@[simp] theorem updateFeed_restartDue (s : State) (f : Feed) (fs : FeedState) : (s.updateFeed f fs).restartDue = s.restartDue := by
  unfold State.updateFeed; split <;> rfl
@[simp] theorem updateFeed_choices (s : State) (f : Feed) (fs : FeedState) : (s.updateFeed f fs).choices = s.choices := by
  unfold State.updateFeed; split <;> rfl
@[simp] theorem updateFeed_pending (s : State) (f : Feed) (fs : FeedState) : (s.updateFeed f fs).pending = s.pending := by
  unfold State.updateFeed; split <;> rfl

@[simp] theorem updateFeed_feeds (s : State) (f : Feed) (fs : FeedState) : (s.updateFeed f fs).feeds = s.feeds.set f fs := by
  unfold State.updateFeed; split <;> rfl

/-! ### Notices and answers -/

@[simp] theorem notice_lineRate (s : State) (k : Byte) (pl : List Byte) : (s.notice k pl).lineRate = s.lineRate := by
  unfold State.notice; split <;> rfl
@[simp] theorem notice_feeds (s : State) (k : Byte) (pl : List Byte) : (s.notice k pl).feeds = s.feeds := by
  unfold State.notice; split <;> rfl
@[simp] theorem notice_dir (s : State) (k : Byte) (pl : List Byte) : (s.notice k pl).dir = s.dir := by
  unfold State.notice; split <;> rfl
@[simp] theorem notice_engine (s : State) (k : Byte) (pl : List Byte) : (s.notice k pl).engine = s.engine := by
  unfold State.notice; split <;> rfl
@[simp] theorem notice_hold (s : State) (k : Byte) (pl : List Byte) : (s.notice k pl).hold = s.hold := by
  unfold State.notice; split <;> rfl
@[simp] theorem notice_log (s : State) (k : Byte) (pl : List Byte) : (s.notice k pl).log = s.log := by
  unfold State.notice; split <;> rfl
@[simp] theorem notice_board (s : State) (k : Byte) (pl : List Byte) : (s.notice k pl).board = s.board := by
  unfold State.notice; split <;> rfl
@[simp] theorem notice_clock (s : State) (k : Byte) (pl : List Byte) : (s.notice k pl).clock = s.clock := by
  unfold State.notice; split <;> rfl
@[simp] theorem notice_faults (s : State) (k : Byte) (pl : List Byte) : (s.notice k pl).faults = s.faults := by
  unfold State.notice; split <;> rfl
@[simp] theorem notice_setup (s : State) (k : Byte) (pl : List Byte) : (s.notice k pl).setup = s.setup := by
  unfold State.notice; split <;> rfl
@[simp] theorem notice_held (s : State) (k : Byte) (pl : List Byte) : (s.notice k pl).held = s.held := by
  unfold State.notice; split <;> rfl
@[simp] theorem notice_restartDue (s : State) (k : Byte) (pl : List Byte) : (s.notice k pl).restartDue = s.restartDue := by
  unfold State.notice; split <;> rfl
@[simp] theorem notice_choices (s : State) (k : Byte) (pl : List Byte) : (s.notice k pl).choices = s.choices := by
  unfold State.notice; split <;> rfl
@[simp] theorem notice_pending (s : State) (k : Byte) (pl : List Byte) : (s.notice k pl).pending = s.pending := by
  unfold State.notice; split <;> rfl

@[simp] theorem answer_lineRate (s : State) (p : Port) (f : Frame) (r : Bool) : (s.answer p f r).lineRate = s.lineRate := rfl
@[simp] theorem answer_feeds (s : State) (p : Port) (f : Frame) (r : Bool) : (s.answer p f r).feeds = s.feeds := rfl
@[simp] theorem answer_dir (s : State) (p : Port) (f : Frame) (r : Bool) : (s.answer p f r).dir = s.dir := rfl
@[simp] theorem answer_engine (s : State) (p : Port) (f : Frame) (r : Bool) : (s.answer p f r).engine = s.engine := rfl
@[simp] theorem answer_hold (s : State) (p : Port) (f : Frame) (r : Bool) : (s.answer p f r).hold = s.hold := rfl
@[simp] theorem answer_log (s : State) (p : Port) (f : Frame) (r : Bool) : (s.answer p f r).log = s.log := rfl
@[simp] theorem answer_board (s : State) (p : Port) (f : Frame) (r : Bool) : (s.answer p f r).board = s.board := rfl
@[simp] theorem answer_clock (s : State) (p : Port) (f : Frame) (r : Bool) : (s.answer p f r).clock = s.clock := rfl
@[simp] theorem answer_faults (s : State) (p : Port) (f : Frame) (r : Bool) : (s.answer p f r).faults = s.faults := rfl
@[simp] theorem answer_setup (s : State) (p : Port) (f : Frame) (r : Bool) : (s.answer p f r).setup = s.setup := rfl
@[simp] theorem answer_held (s : State) (p : Port) (f : Frame) (r : Bool) : (s.answer p f r).held = s.held := rfl
@[simp] theorem answer_restartDue (s : State) (p : Port) (f : Frame) (r : Bool) : (s.answer p f r).restartDue = s.restartDue := rfl
@[simp] theorem answer_choices (s : State) (p : Port) (f : Frame) (r : Bool) : (s.answer p f r).choices = s.choices := rfl
@[simp] theorem answer_pending (s : State) (p : Port) (f : Frame) (r : Bool) : (s.answer p f r).pending = s.pending := rfl

@[simp] theorem taken_lineRate (s : State) (p : Port) (r : List Frame) : (s.taken p r).lineRate = s.lineRate := rfl
@[simp] theorem taken_feeds (s : State) (p : Port) (r : List Frame) : (s.taken p r).feeds = s.feeds := rfl
@[simp] theorem taken_dir (s : State) (p : Port) (r : List Frame) : (s.taken p r).dir = s.dir := rfl
@[simp] theorem taken_engine (s : State) (p : Port) (r : List Frame) : (s.taken p r).engine = s.engine := rfl
@[simp] theorem taken_hold (s : State) (p : Port) (r : List Frame) : (s.taken p r).hold = s.hold := rfl
@[simp] theorem taken_log (s : State) (p : Port) (r : List Frame) : (s.taken p r).log = s.log := rfl
@[simp] theorem taken_board (s : State) (p : Port) (r : List Frame) : (s.taken p r).board = s.board := rfl
@[simp] theorem taken_clock (s : State) (p : Port) (r : List Frame) : (s.taken p r).clock = s.clock := rfl
@[simp] theorem taken_faults (s : State) (p : Port) (r : List Frame) : (s.taken p r).faults = s.faults := rfl
@[simp] theorem taken_setup (s : State) (p : Port) (r : List Frame) : (s.taken p r).setup = s.setup := rfl
@[simp] theorem taken_held (s : State) (p : Port) (r : List Frame) : (s.taken p r).held = s.held := rfl
@[simp] theorem taken_restartDue (s : State) (p : Port) (r : List Frame) : (s.taken p r).restartDue = s.restartDue := rfl
@[simp] theorem taken_choices (s : State) (p : Port) (r : List Frame) : (s.taken p r).choices = s.choices := rfl
@[simp] theorem taken_pending (s : State) (p : Port) (r : List Frame) : (s.taken p r).pending = s.pending := rfl

/-! ### Faults -/

@[simp] theorem capture_lineRate (s : State) (x : FaultSet) (r : FaultRecord) : (capture x r s).lineRate = s.lineRate := by
  simp [capture]
@[simp] theorem capture_feeds (s : State) (x : FaultSet) (r : FaultRecord) : (capture x r s).feeds = s.feeds := by
  simp [capture]
@[simp] theorem capture_dir (s : State) (x : FaultSet) (r : FaultRecord) : (capture x r s).dir = s.dir := by
  simp [capture]
@[simp] theorem capture_engine (s : State) (x : FaultSet) (r : FaultRecord) : (capture x r s).engine = s.engine := by
  simp [capture]
@[simp] theorem capture_hold (s : State) (x : FaultSet) (r : FaultRecord) : (capture x r s).hold = s.hold := by
  simp [capture]
@[simp] theorem capture_log (s : State) (x : FaultSet) (r : FaultRecord) : (capture x r s).log = s.log := by
  simp [capture]
@[simp] theorem capture_board (s : State) (x : FaultSet) (r : FaultRecord) : (capture x r s).board = s.board := by
  simp [capture]
@[simp] theorem capture_clock (s : State) (x : FaultSet) (r : FaultRecord) : (capture x r s).clock = s.clock := by
  simp [capture]
@[simp] theorem capture_setup (s : State) (x : FaultSet) (r : FaultRecord) : (capture x r s).setup = s.setup := by
  simp [capture]
@[simp] theorem capture_held (s : State) (x : FaultSet) (r : FaultRecord) : (capture x r s).held = s.held := by
  simp [capture]
@[simp] theorem capture_restartDue (s : State) (x : FaultSet) (r : FaultRecord) : (capture x r s).restartDue = s.restartDue := by
  simp [capture]
@[simp] theorem capture_choices (s : State) (x : FaultSet) (r : FaultRecord) : (capture x r s).choices = s.choices := by
  simp [capture]
@[simp] theorem capture_pending (s : State) (x : FaultSet) (r : FaultRecord) : (capture x r s).pending = s.pending := by
  simp [capture]

@[simp] theorem raiseFault_lineRate (s : State) (k : FaultKind) (d : Nat) : (raiseFault k d s).lineRate = s.lineRate := by
  unfold raiseFault; split <;> simp
@[simp] theorem raiseFault_feeds (s : State) (k : FaultKind) (d : Nat) : (raiseFault k d s).feeds = s.feeds := by
  unfold raiseFault; split <;> simp
@[simp] theorem raiseFault_dir (s : State) (k : FaultKind) (d : Nat) : (raiseFault k d s).dir = s.dir := by
  unfold raiseFault; split <;> simp
@[simp] theorem raiseFault_engine (s : State) (k : FaultKind) (d : Nat) : (raiseFault k d s).engine = s.engine := by
  unfold raiseFault; split <;> simp
@[simp] theorem raiseFault_hold (s : State) (k : FaultKind) (d : Nat) : (raiseFault k d s).hold = s.hold := by
  unfold raiseFault; split <;> simp
@[simp] theorem raiseFault_log (s : State) (k : FaultKind) (d : Nat) : (raiseFault k d s).log = s.log := by
  unfold raiseFault; split <;> simp
@[simp] theorem raiseFault_board (s : State) (k : FaultKind) (d : Nat) : (raiseFault k d s).board = s.board := by
  unfold raiseFault; split <;> simp
@[simp] theorem raiseFault_clock (s : State) (k : FaultKind) (d : Nat) : (raiseFault k d s).clock = s.clock := by
  unfold raiseFault; split <;> simp
@[simp] theorem raiseFault_setup (s : State) (k : FaultKind) (d : Nat) : (raiseFault k d s).setup = s.setup := by
  unfold raiseFault; split <;> simp
@[simp] theorem raiseFault_held (s : State) (k : FaultKind) (d : Nat) : (raiseFault k d s).held = s.held := by
  unfold raiseFault; split <;> simp
@[simp] theorem raiseFault_restartDue (s : State) (k : FaultKind) (d : Nat) : (raiseFault k d s).restartDue = s.restartDue := by
  unfold raiseFault; split <;> simp
@[simp] theorem raiseFault_choices (s : State) (k : FaultKind) (d : Nat) : (raiseFault k d s).choices = s.choices := by
  unfold raiseFault; split <;> simp
@[simp] theorem raiseFault_pending (s : State) (k : FaultKind) (d : Nat) : (raiseFault k d s).pending = s.pending := by
  unfold raiseFault; split <;> simp

@[simp] theorem integrityFailure_lineRate (s : State) (b : Nat) : (integrityFailure b s).lineRate = s.lineRate := by
  unfold integrityFailure; split <;> simp
@[simp] theorem integrityFailure_feeds (s : State) (b : Nat) : (integrityFailure b s).feeds = s.feeds := by
  unfold integrityFailure; split <;> simp
@[simp] theorem integrityFailure_dir (s : State) (b : Nat) : (integrityFailure b s).dir = s.dir := by
  unfold integrityFailure; split <;> simp
@[simp] theorem integrityFailure_engine (s : State) (b : Nat) : (integrityFailure b s).engine = s.engine := by
  unfold integrityFailure; split <;> simp
@[simp] theorem integrityFailure_hold (s : State) (b : Nat) : (integrityFailure b s).hold = s.hold := by
  unfold integrityFailure; split <;> simp
@[simp] theorem integrityFailure_log (s : State) (b : Nat) : (integrityFailure b s).log = s.log := by
  unfold integrityFailure; split <;> simp
@[simp] theorem integrityFailure_board (s : State) (b : Nat) : (integrityFailure b s).board = s.board := by
  unfold integrityFailure; split <;> simp
@[simp] theorem integrityFailure_clock (s : State) (b : Nat) : (integrityFailure b s).clock = s.clock := by
  unfold integrityFailure; split <;> simp
@[simp] theorem integrityFailure_setup (s : State) (b : Nat) : (integrityFailure b s).setup = s.setup := by
  unfold integrityFailure; split <;> simp
@[simp] theorem integrityFailure_held (s : State) (b : Nat) : (integrityFailure b s).held = s.held := by
  unfold integrityFailure; split <;> simp
@[simp] theorem integrityFailure_restartDue (s : State) (b : Nat) : (integrityFailure b s).restartDue = s.restartDue := by
  unfold integrityFailure; split <;> simp
@[simp] theorem integrityFailure_choices (s : State) (b : Nat) : (integrityFailure b s).choices = s.choices := by
  unfold integrityFailure; split <;> simp
@[simp] theorem integrityFailure_pending (s : State) (b : Nat) : (integrityFailure b s).pending = s.pending := by
  unfold integrityFailure; split <;> simp

/-! ### The checked read of a record, a hold, a posting -/

@[simp] theorem readChecked_lineRate (s : State) (b : Nat) : (readChecked b s).2.lineRate = s.lineRate := by
  unfold readChecked; dsimp only; split <;> simp
@[simp] theorem readChecked_feeds (s : State) (b : Nat) : (readChecked b s).2.feeds = s.feeds := by
  unfold readChecked; dsimp only; split <;> simp
@[simp] theorem readChecked_engine (s : State) (b : Nat) : (readChecked b s).2.engine = s.engine := by
  unfold readChecked; dsimp only; split <;> simp
@[simp] theorem readChecked_hold (s : State) (b : Nat) : (readChecked b s).2.hold = s.hold := by
  unfold readChecked; dsimp only; split <;> simp
@[simp] theorem readChecked_log (s : State) (b : Nat) : (readChecked b s).2.log = s.log := by
  unfold readChecked; dsimp only; split <;> simp
@[simp] theorem readChecked_board (s : State) (b : Nat) : (readChecked b s).2.board = s.board := by
  unfold readChecked; dsimp only; split <;> simp
@[simp] theorem readChecked_clock (s : State) (b : Nat) : (readChecked b s).2.clock = s.clock := by
  unfold readChecked; dsimp only; split <;> simp
@[simp] theorem readChecked_setup (s : State) (b : Nat) : (readChecked b s).2.setup = s.setup := by
  unfold readChecked; dsimp only; split <;> simp
@[simp] theorem readChecked_held (s : State) (b : Nat) : (readChecked b s).2.held = s.held := by
  unfold readChecked; dsimp only; split <;> simp
@[simp] theorem readChecked_restartDue (s : State) (b : Nat) : (readChecked b s).2.restartDue = s.restartDue := by
  unfold readChecked; dsimp only; split <;> simp
@[simp] theorem readChecked_choices (s : State) (b : Nat) : (readChecked b s).2.choices = s.choices := by
  unfold readChecked; dsimp only; split <;> simp
@[simp] theorem readChecked_pending (s : State) (b : Nat) : (readChecked b s).2.pending = s.pending := by
  unfold readChecked; dsimp only; split <;> simp

@[simp] theorem discardHold_lineRate (s : State) (f : Feed) (c : Nat) : (discardHold f c s).lineRate = s.lineRate := by
  simp [discardHold]
@[simp] theorem discardHold_dir (s : State) (f : Feed) (c : Nat) : (discardHold f c s).dir = s.dir := by
  simp [discardHold]
@[simp] theorem discardHold_engine (s : State) (f : Feed) (c : Nat) : (discardHold f c s).engine = s.engine := by
  simp [discardHold]
@[simp] theorem discardHold_log (s : State) (f : Feed) (c : Nat) : (discardHold f c s).log = s.log := by
  simp [discardHold]
@[simp] theorem discardHold_board (s : State) (f : Feed) (c : Nat) : (discardHold f c s).board = s.board := by
  simp [discardHold]
@[simp] theorem discardHold_clock (s : State) (f : Feed) (c : Nat) : (discardHold f c s).clock = s.clock := by
  simp [discardHold]
@[simp] theorem discardHold_setup (s : State) (f : Feed) (c : Nat) : (discardHold f c s).setup = s.setup := by
  simp [discardHold]
@[simp] theorem discardHold_held (s : State) (f : Feed) (c : Nat) : (discardHold f c s).held = s.held := by
  simp [discardHold]
@[simp] theorem discardHold_restartDue (s : State) (f : Feed) (c : Nat) : (discardHold f c s).restartDue = s.restartDue := by
  simp [discardHold]
@[simp] theorem discardHold_choices (s : State) (f : Feed) (c : Nat) : (discardHold f c s).choices = s.choices := by
  simp [discardHold]
@[simp] theorem discardHold_pending (s : State) (f : Feed) (c : Nat) : (discardHold f c s).pending = s.pending := by
  simp [discardHold]

@[simp] theorem holdRead_lineRate (s : State) (r : JudgedRead) (x : HoldReason) : (holdRead r x s).lineRate = s.lineRate := by
  unfold holdRead; dsimp only; repeat' split
  all_goals simp
@[simp] theorem holdRead_dir (s : State) (r : JudgedRead) (x : HoldReason) : (holdRead r x s).dir = s.dir := by
  unfold holdRead; dsimp only; repeat' split
  all_goals simp
@[simp] theorem holdRead_engine (s : State) (r : JudgedRead) (x : HoldReason) : (holdRead r x s).engine = s.engine := by
  unfold holdRead; dsimp only; repeat' split
  all_goals simp
@[simp] theorem holdRead_log (s : State) (r : JudgedRead) (x : HoldReason) : (holdRead r x s).log = s.log := by
  unfold holdRead; dsimp only; repeat' split
  all_goals simp
@[simp] theorem holdRead_board (s : State) (r : JudgedRead) (x : HoldReason) : (holdRead r x s).board = s.board := by
  unfold holdRead; dsimp only; repeat' split
  all_goals simp
@[simp] theorem holdRead_clock (s : State) (r : JudgedRead) (x : HoldReason) : (holdRead r x s).clock = s.clock := by
  unfold holdRead; dsimp only; repeat' split
  all_goals simp
@[simp] theorem holdRead_setup (s : State) (r : JudgedRead) (x : HoldReason) : (holdRead r x s).setup = s.setup := by
  unfold holdRead; dsimp only; repeat' split
  all_goals simp
@[simp] theorem holdRead_held (s : State) (r : JudgedRead) (x : HoldReason) : (holdRead r x s).held = s.held := by
  unfold holdRead; dsimp only; repeat' split
  all_goals simp
@[simp] theorem holdRead_restartDue (s : State) (r : JudgedRead) (x : HoldReason) : (holdRead r x s).restartDue = s.restartDue := by
  unfold holdRead; dsimp only; repeat' split
  all_goals simp
@[simp] theorem holdRead_choices (s : State) (r : JudgedRead) (x : HoldReason) : (holdRead r x s).choices = s.choices := by
  unfold holdRead; dsimp only; repeat' split
  all_goals simp
@[simp] theorem holdRead_pending (s : State) (r : JudgedRead) (x : HoldReason) : (holdRead r x s).pending = s.pending := by
  unfold holdRead; dsimp only; repeat' split
  all_goals simp

@[simp] theorem post_lineRate (s : State) (i : PostInput) (n : Nat) : (post i n s).2.lineRate = s.lineRate := by
  simp [post]
@[simp] theorem post_feeds (s : State) (i : PostInput) (n : Nat) : (post i n s).2.feeds = s.feeds := by
  simp [post]
@[simp] theorem post_engine (s : State) (i : PostInput) (n : Nat) : (post i n s).2.engine = s.engine := by
  simp [post]
@[simp] theorem post_hold (s : State) (i : PostInput) (n : Nat) : (post i n s).2.hold = s.hold := by
  simp [post]
@[simp] theorem post_clock (s : State) (i : PostInput) (n : Nat) : (post i n s).2.clock = s.clock := by
  simp [post]
@[simp] theorem post_setup (s : State) (i : PostInput) (n : Nat) : (post i n s).2.setup = s.setup := by
  simp [post]
@[simp] theorem post_held (s : State) (i : PostInput) (n : Nat) : (post i n s).2.held = s.held := by
  simp [post]
@[simp] theorem post_restartDue (s : State) (i : PostInput) (n : Nat) : (post i n s).2.restartDue = s.restartDue := by
  simp [post]
@[simp] theorem post_choices (s : State) (i : PostInput) (n : Nat) : (post i n s).2.choices = s.choices := by
  simp [post]
@[simp] theorem post_pending (s : State) (i : PostInput) (n : Nat) : (post i n s).2.pending = s.pending := by
  simp [post]

end Sys2Proof.Machine
end

