-- ==== Sys2Proof/Laws/Ops.lean ====
section
/-! SUPPORT. The shared operations: for each, once, everything it can do. -/

namespace Sys2Proof.Machine

-- One declaration after another: waiting threads would each hold a stack.
set_option Elab.async false

/-! ### Taking and answering a request -/

theorem takeFrame_of_asks {s : State} {p : Port} {f : Frame} {rest : List Frame} {row : Frame → Bool} (h : s.Asks p f rest)
    (hr : row f = true) : takeFrame p row s = some (f, s.taken p rest) := by
  obtain ⟨h1, h2, h3, h4⟩ := h
  simp [takeFrame, PortState.ready, State.taken, h1, h2, h3, h4, hr]

theorem takeFrame_other {s : State} {p : Port} {f : Frame} {rest : List Frame} {row : Frame → Bool} (h : s.Asks p f rest)
    (hr : row f = false) : takeFrame p row s = none := by
  obtain ⟨h1, h2, h3, h4⟩ := h
  simp [takeFrame, PortState.ready, h1, h2, h3, h4, hr]

/-- A port takes a frame exactly when it asks and the frame is of the row. -/
theorem takeFrame_some {s t : State} {p : Port} {f : Frame} {row : Frame → Bool} (h : takeFrame p row s = some (f, t)) :
    ∃ rest, s.Asks p f rest ∧ row f = true ∧ t = s.taken p rest := by
  unfold takeFrame at h
  split at h
  · simp at h
  · rename_i hc
    simp only [Bool.or_eq_true, not_or, Bool.not_eq_true, Bool.not_eq_false', PortState.ready, Bool.and_eq_true,
      Option.isNone_iff_eq_none, decide_eq_true_eq] at hc
    split at h
    · rename_i g rest hb
      split at h
      · simp only [Option.some.injEq, Prod.mk.injEq] at h
        obtain ⟨rfl, rfl⟩ := h
        exact ⟨rest, ⟨hc.1, hc.2.1, hc.2.2, hb⟩, by assumption, rfl⟩
      · simp at h
    · simp at h

/-- A request row answers in the event that takes it, and changes nothing when its port does not take it. -/
theorem serve_of_asks {α : Type} {s : State} {p : Port} {f : Frame} {rest : List Frame} {row : Frame → Bool}
    (layout : List Byte → Option α) (act : α → State → Reply) (h : s.Asks p f rest) (hr : row f = true) :
    serve p row layout act s = .next (answered p f (s.taken p rest) (checked p f layout act (s.taken p rest))) := by
  simp [serve, takeFrame_of_asks h hr]

theorem serve_idle {α : Type} {s : State} {p : Port} {row : Frame → Bool} (layout : List Byte → Option α)
    (act : α → State → Reply) (h : ∀ f rest, s.Asks p f rest → row f = false) : serve p row layout act s = .next s := by
  unfold serve
  split
  · rfl
  · rename_i f t ht
    obtain ⟨rest, ha, hr, -⟩ := takeFrame_some ht
    simp [h f rest ha] at hr

theorem serve_next {α : Type} (s : State) (p : Port) (row : Frame → Bool) (layout : List Byte → Option α)
    (act : α → State → Reply) :
    serve p row layout act s = .next s ∨ ∃ f rest, s.Asks p f rest ∧ row f = true ∧
      serve p row layout act s = .next (answered p f (s.taken p rest) (checked p f layout act (s.taken p rest))) := by
  unfold serve
  split
  · exact .inl rfl
  · rename_i f t ht
    obtain ⟨rest, ha, hr, rfl⟩ := takeFrame_some ht
    exact .inr ⟨f, rest, ha, hr, rfl⟩

theorem checked_fits {α : Type} {p : Port} {f : Frame} {layout : List Byte → Option α} {a : α} (act : α → State → Reply)
    (s : State) (h : layout f.payload = some a) (hr : Kind.taken p.role f.kind = true) :
    checked p f layout act s = act a s := by
  simp [checked, h, hr]

@[simp] theorem answered_ok (p : Port) (f : Frame) (s t : State) (results : List Byte) :
    answered p f s (.ok (t, results)) = t.ack p f results := rfl

@[simp] theorem answered_error (p : Port) (f : Frame) (s : State) (r : Reason) :
    answered p f s (.error r) = s.refuse p f r := rfl

/-- What no port holds and the action of a request keeps, the request keeps. -/
theorem serve_keeps {α β : Type} (g : State → β) (hp : ∀ s p ps, g (State.setPort s p ps) = g s) {s t : State} {p : Port}
    {row : Frame → Bool} {layout : List Byte → Option α} {act : α → State → Reply}
    (ha : ∀ a u v r, act a u = .ok (v, r) → g v = g u) (h : serve p row layout act s = .next t) : g t = g s := by
  obtain he | ⟨f, rest, -, -, he⟩ := serve_next s p row layout act
  · rw [he] at h; cases h; rfl
  · rw [he] at h
    cases h
    unfold checked
    split
    · simp [State.refuse, State.answer, State.taken, hp]
    · split
      · cases hx : act _ (s.taken p rest) with
        | error r => simp [State.refuse, State.answer, State.taken, hp]
        | ok v => obtain ⟨v, r⟩ := v; simp [State.ack, State.answer, State.taken, hp, ha _ _ _ _ hx]
      · simp [State.refuse, State.answer, State.taken, hp]

end Sys2Proof.Machine
end

