-- ==== Sys2Proof/Laws/Idle.lean ====
section
/-! SUPPORT. The step on an empty queue: what is due, which due event is taken, and the three things that one step can be. -/

namespace Sys2Proof.Machine

-- One declaration after another: waiting threads would each hold a stack.
set_option Elab.async false

theorem mem_dueIf {b : Bool} {c d : Instr} : c ∈ dueIf b d ↔ b = true ∧ c = d := by
  unfold dueIf
  split <;> simp [*]

/-- While the part is held nothing is due. -/
theorem dueEvents_held {s : State} (h : s.held = true) : dueEvents s = [] := if_pos h

/-- A due event, block by block: a line, a request, then the part's own events. -/
theorem mem_dueEvents {s : State} (h : s.held = false) (c : Instr) :
    c ∈ dueEvents s ↔ (∃ p, c ∈ lineDue p s ∨ c ∈ requestDue p s)
      ∨ (writeDue s = true ∧ c = .setupWriteEnd) ∨ (s.restartDue = true ∧ c = .warmRestart .request)
      ∨ (deferredDue s = true ∧ c = .deferredFallback) ∨ (xoDue s = true ∧ c = .xoQualify)
      ∨ ((nextJudgement s).isSome = true ∧ c = .readJudgement)
      ∨ (∃ x ∈ s.engine.crossings, (dueCrossing x.bib s).isSome = true ∧ c = .deadlineExpiry x.bib)
      ∨ (∃ f, silenceDue f s = true ∧ c = .silenceExpiry f)
      ∨ (∃ e ∈ s.hold.list, (timedOutEntry e.chip s).isSome = true ∧ c = .holdTimeoutExpiry e.chip)
      ∨ ((moveDue s).isSome = true ∧ c = .releaseMove) ∨ (quietDue s = true ∧ c = .quietExpiry)
      ∨ (∃ r, missingDue r s = true ∧ c = .missingPeriod r)
      ∨ ((secondDue s && s.clock.readyRequest.isSome) = true ∧ c = .switchCompletion)
      ∨ (slewDue s = true ∧ c = .leadSlew) := by
  have ports (q : Port → Prop) : (∃ p ∈ [Port.a, .b, .c, .d], q p) ↔ ∃ p, q p :=
    ⟨fun ⟨p, _, hp⟩ => ⟨p, hp⟩, fun ⟨p, hp⟩ => ⟨p, by cases p <;> simp, hp⟩⟩
  have feeds (q : Feed → Prop) : (∃ f, q f) ↔ q .a ∨ q .b :=
    ⟨fun ⟨f, hf⟩ => by cases f <;> simp [hf], fun hf => hf.elim (fun x => ⟨_, x⟩) (fun x => ⟨_, x⟩)⟩
  have refs (q : Reference → Prop) : (∃ r, q r) ↔ q .sync ∨ q .beacon :=
    ⟨fun ⟨r, hr⟩ => by cases r <;> simp [hr], fun hr => hr.elim (fun x => ⟨_, x⟩) (fun x => ⟨_, x⟩)⟩
  unfold dueEvents
  rw [if_neg (by simp [h])]
  simp only [List.mem_append, mem_dueIf, List.mem_flatMap, ports, feeds, refs, List.mem_map, List.mem_filter, or_assoc,
    and_assoc, eq_comm (b := c)]

/-- The event taken next is due, and it is taken in the same state but for the counter of free values. -/
theorem nextDue_mem {s t : State} {c : Instr} (h : nextDue s = some (c, t)) :
    c ∈ dueEvents s ∧ ∃ n, t = { s with choices := n } := by
  unfold nextDue at h
  split at h
  · rename_i hd
    cases h
    have hh : s.held = false := by
      simp only [deferredDue, Bool.and_eq_true, Bool.not_eq_true'] at hd
      exact hd.1
    exact ⟨(mem_dueEvents hh _).mpr (by simp [hd]), s.choices, rfl⟩
  · split at h
    · cases h
    · rename_i hd
      cases h
      exact ⟨by rw [hd]; exact List.mem_singleton_self _, s.choices, rfl⟩
    · rename_i x y rest hd
      simp only [Option.some.injEq, Prod.mk.injEq] at h
      obtain ⟨rfl, rfl⟩ := h
      refine ⟨?_, _, rfl⟩
      rw [hd, List.getD_eq_getElem?_getD, List.getElem?_eq_getElem (Nat.mod_lt _ (by simp)), Option.getD_some]
      exact List.getElem_mem _

/-- Nothing is taken on an empty queue exactly when nothing is due. -/
theorem nextDue_none {s : State} : nextDue s = none ↔ dueEvents s = [] := by
  unfold nextDue
  split
  · rename_i hd
    have hh : s.held = false := by
      simp only [deferredDue, Bool.and_eq_true, Bool.not_eq_true'] at hd
      exact hd.1
    have hm : Instr.deferredFallback ∈ dueEvents s := (mem_dueEvents hh _).mpr (by simp [hd])
    constructor
    · intro x
      cases x
    · intro x
      rw [x] at hm
      cases hm
  · split <;> simp_all

/-- A step that goes on ran the front command, or an event that was due, or a millisecond passed. -/
theorem step_next {s t : State} (h : step s = .next t) :
    (∃ c rest, s.pending = c :: rest ∧ exec c { s with pending := rest } = .next t)
      ∨ (∃ c n, s.pending = [] ∧ c ∈ dueEvents s ∧ exec c { s with choices := n } = .next t)
      ∨ (s.pending = [] ∧ dueEvents s = [] ∧ tick s = .next t) := by
  unfold step at h
  split at h
  · exact .inl ⟨_, _, by assumption, h⟩
  · rename_i hp
    unfold idle at h
    right
    split at h
    · rename_i c u hn
      obtain ⟨hc, n, rfl⟩ := nextDue_mem hn
      exact .inl ⟨c, n, hp, hc, h⟩
    · rename_i hn
      exact .inr ⟨hp, nextDue_none.mp hn, h⟩

end Sys2Proof.Machine
end

