-- ==== Sys2Proof/Laws/PerInstr.lean ====
section
/-! SUPPORT. One law for every command: it is well-formed, unless it is one of the three rows whose operands are numbers or
contents with a range, and an operand lies outside its range. -/

namespace Sys2Proof.Laws.OperandRanges

-- One declaration after another: waiting threads would each hold a stack.
set_option Elab.async false

/-- A command that is not well-formed names a bib, a chip code or a content outside its range. -/
def Statement (i : Instr) : Prop :=
  i.wf = true ∨ (∃ bib, i = .deadlineExpiry bib ∧ (bib = 0 ∨ 60000 < bib)) ∨
    (∃ chip, i = .holdTimeoutExpiry chip ∧ (chip = 0 ∨ 4294967296 ≤ chip)) ∨
    ∃ bib content, i = .recordUpset bib content ∧ (bib = 0 ∨ 60000 < bib ∨ content.inRange = false)

theorem frameArrival (p : Port) (bytes : List Byte) : Statement (.frameArrival p bytes) := .inl rfl
theorem crcDiscard (p : Port) (bytes : List Byte) : Statement (.crcDiscard p bytes) := .inl rfl
theorem lengthDiscard (p : Port) (bytes : List Byte) : Statement (.lengthDiscard p bytes) := .inl rfl
theorem framingError (p : Port) (bytes : List Byte) : Statement (.framingError p bytes) := .inl rfl
theorem gapExpiry (p : Port) : Statement (.gapExpiry p) := .inl rfl
theorem frameSent (p : Port) : Statement (.frameSent p) := .inl rfl
theorem requestOfNoKind (p : Port) : Statement (.requestOfNoKind p) := .inl rfl
theorem report (p : Port) : Statement (.report p) := .inl rfl
theorem matState (p : Port) : Statement (.matState p) := .inl rfl
theorem time (p : Port) : Statement (.time p) := .inl rfl
theorem describe (p : Port) : Statement (.describe p) := .inl rfl
theorem page (p : Port) : Statement (.page p) := .inl rfl
theorem runnerLoad (p : Port) : Statement (.runnerLoad p) := .inl rfl
theorem runnerRead (p : Port) : Statement (.runnerRead p) := .inl rfl
theorem aliasSet (p : Port) : Statement (.aliasSet p) := .inl rfl
theorem aliasClear (p : Port) : Statement (.aliasClear p) := .inl rfl
theorem waveStart (p : Port) : Statement (.waveStart p) := .inl rfl
theorem waveSet (p : Port) : Statement (.waveSet p) := .inl rfl
theorem pointSet (p : Port) : Statement (.pointSet p) := .inl rfl
theorem holdsRead (p : Port) : Statement (.holdsRead p) := .inl rfl
theorem holdResolveAdmit (p : Port) : Statement (.holdResolveAdmit p) := .inl rfl
theorem holdResolveReject (p : Port) : Statement (.holdResolveReject p) := .inl rfl
theorem holdTimeoutSet (p : Port) : Statement (.holdTimeoutSet p) := .inl rfl
theorem splitsRead (p : Port) : Statement (.splitsRead p) := .inl rfl
theorem boardSet (p : Port) : Statement (.boardSet p) := .inl rfl
theorem rotationSet (p : Port) : Statement (.rotationSet p) := .inl rfl
theorem patternSet (p : Port) : Statement (.patternSet p) := .inl rfl
theorem gunSet (p : Port) : Statement (.gunSet p) := .inl rfl
theorem timeBeacon (p : Port) : Statement (.timeBeacon p) := .inl rfl
theorem clockSelect (p : Port) : Statement (.clockSelect p) := .inl rfl
theorem clockLock (p : Port) : Statement (.clockLock p) := .inl rfl
theorem clockFailClear (p : Port) : Statement (.clockFailClear p) := .inl rfl
theorem clockSetup (p : Port) : Statement (.clockSetup p) := .inl rfl
theorem deferredFallback : Statement (.deferredFallback) := .inl rfl
theorem withdraw (p : Port) : Statement (.withdraw p) := .inl rfl
theorem reinstate (p : Port) : Statement (.reinstate p) := .inl rfl
theorem amend (p : Port) : Statement (.amend p) := .inl rfl
theorem crossingEnter (p : Port) : Statement (.crossingEnter p) := .inl rfl
theorem faultRead (p : Port) : Statement (.faultRead p) := .inl rfl
theorem faultClearOrdinary (p : Port) : Statement (.faultClearOrdinary p) := .inl rfl
theorem faultClearIntegrity (p : Port) : Statement (.faultClearIntegrity p) := .inl rfl
theorem integritySet (p : Port) : Statement (.integritySet p) := .inl rfl
theorem statusRead (p : Port) : Statement (.statusRead p) := .inl rfl
theorem setupStore (p : Port) : Statement (.setupStore p) := .inl rfl
theorem setupWriteEnd : Statement (.setupWriteEnd) := .inl rfl
theorem restart (p : Port) : Statement (.restart p) := .inl rfl
theorem readJudgement : Statement (.readJudgement) := .inl rfl
theorem silenceExpiry (feed : Feed) : Statement (.silenceExpiry feed) := .inl rfl
theorem releaseMove : Statement (.releaseMove) := .inl rfl
theorem quietExpiry : Statement (.quietExpiry) := .inl rfl
theorem syncMark : Statement (.syncMark) := .inl rfl
theorem missingPeriod (ref : Reference) : Statement (.missingPeriod ref) := .inl rfl
theorem xoQualify : Statement (.xoQualify) := .inl rfl
theorem xoGap : Statement (.xoGap) := .inl rfl
theorem comparisonWindowEnd (cycles : Nat) : Statement (.comparisonWindowEnd cycles) := .inl rfl
theorem switchCompletion : Statement (.switchCompletion) := .inl rfl
theorem leadSlew : Statement (.leadSlew) := .inl rfl
theorem warmRestart (cause : RestartCause) : Statement (.warmRestart cause) := .inl rfl
theorem coldReset (strap1 strap0 : Bool) : Statement (.coldReset strap1 strap0) := .inl rfl
theorem setupBlockChange (items : Settings) : Statement (.setupBlockChange items) := .inl rfl
theorem resetRisingEdge : Statement (.resetRisingEdge) := .inl rfl

theorem deadlineExpiry (bib : Nat) : Statement (.deadlineExpiry bib) := by
  by_cases h : 1 ≤ bib ∧ bib ≤ 60000
  · exact .inl (by simp [Instr.wf, bibOk, h])
  · exact .inr (.inl ⟨bib, rfl, by omega⟩)

theorem holdTimeoutExpiry (chip : Nat) : Statement (.holdTimeoutExpiry chip) := by
  by_cases h : 1 ≤ chip ∧ chip < 4294967296
  · exact .inl (by simp [Instr.wf, chipOk, h])
  · exact .inr (.inr (.inl ⟨chip, rfl, by omega⟩))

theorem recordUpset (bib : Nat) (content : RecordFields) : Statement (.recordUpset bib content) := by
  by_cases h : 1 ≤ bib ∧ bib ≤ 60000
  · cases hc : content.inRange with
    | true => exact .inl (by simp [Instr.wf, bibOk, h, hc])
    | false => exact .inr (.inr (.inr ⟨bib, content, rfl, .inr (.inr hc)⟩))
  · exact .inr (.inr (.inr ⟨bib, content, rfl, by omega⟩))

end Sys2Proof.Laws.OperandRanges
end

