-- ==== Sys2Proof/Laws/Requests.lean ====
section
/-! SUPPORT. What each request can do: the state that its ACK leaves, as one equation, with the conditions under which it is
accepted. -/

namespace Sys2Proof.Machine

-- One declaration after another: waiting threads would each hold a stack.
set_option Elab.async false

theorem report_ok {f : Feed} {r : Layout.Report} {s t : State} {x : List Byte} (h : report f r s = .ok (t, x)) :
    ∃ e queue, s.clock.epoch = some e ∧ queue.length ≤ feedQueueCap ∧ t = s.setFeed f { s.feed f with
      queue := queue, counts := (s.feed f).counts.add r.reads.length .queued } := by
  unfold report at h
  split at h
  · cases h
  · split at h
    · cases h
    · rename_i now hn
      dsimp only at h
      split at h
      · cases h
      · split at h
        · cases h
        · rename_i hl
          cases h
          obtain ⟨e, he, -⟩ := Option.map_eq_some_iff.mp hn
          refine ⟨e, _, he, ?_, rfl⟩
          simp only [reportReads, List.length_append, List.length_map]
          omega

theorem matState_ok {f : Feed} {code : Nat} {s t : State} {x : List Byte} (h : matState f code s = .ok (t, x)) :
    ∃ m, t = s.updateFeed f { s.feed f with mat := m } := by
  unfold matState at h
  split at h
  · cases h
  · rename_i m hm
    cases h
    exact ⟨m, rfl⟩

theorem describe_ok {p : Port} {leaf : Nat} {s t : State} {x : List Byte} (h : describe p leaf s = .ok (t, x)) : t = s := by
  unfold describe at h
  split at h <;> cases h <;> rfl

theorem runnerLoad_ok {rs : List Layout.LoadRecord} {s t : State} {x : List Byte} (h : runnerLoad rs s = .ok (t, x)) :
    rs.any loadRange = false ∧
      t = { s with dir := rs.foldl loadOne s.dir, hold := s.hold.mark (suspectOf (rs.map Layout.LoadRecord.bib)) } := by
  unfold runnerLoad at h
  split at h
  · cases h
  · split at h
    · cases h
    · rename_i hr _
      cases h
      exact ⟨by simp only [not_or, Bool.not_eq_true] at hr; exact hr.2.2, rfl⟩

theorem runnerRead_ok {bib : Nat} {s t : State} {x : List Byte} (h : runnerRead bib s = .ok (t, x)) :
    bibOk bib = true ∧ t = (readChecked bib s).2 := by
  unfold runnerRead at h
  split at h
  · cases h; exact ⟨by assumption, rfl⟩
  · cases h

theorem aliasSet_ok {r : Nat × Nat} {s t : State} {x : List Byte} (h : aliasSet r s = .ok (t, x)) :
    maxBib < r.1 ∧ r.2 ≤ maxBib ∧ t = { s with dir := (s.dir.writeAlias r.1 r.2).2 } := by
  unfold aliasSet at h
  split at h
  · cases h
  · rename_i hr
    split at h
    · cases h
    · rename_i w d _ hw
      cases h
      exact ⟨by omega, by omega, by rw [hw]⟩

theorem aliasClear_ok {chip : Nat} {s t : State} {x : List Byte} (h : aliasClear chip s = .ok (t, x)) :
    t = { s with dir := { s.dir with aliasMap := s.dir.aliasMap.filter (fun e => e.1 != chip) } } := by
  unfold aliasClear at h
  split at h
  · cases h
  · split at h
    · cases h
    · cases h; rfl

theorem waveStart_ok {r : Nat × Option Nat} {s t : State} {x : List Byte} (h : waveStart r s = .ok (t, x)) :
    ∃ gun, t = { s with dir := s.dir.startWave r.1 gun, hold := s.hold.mark (waitsForWave r.1) } := by
  unfold waveStart at h
  split at h
  · cases h
  · split at h
    · cases h
    · dsimp only at h
      split at h
      · cases h
      · split at h
        · cases h
        · cases h; exact ⟨_, rfl⟩

theorem waveSet_ok {r : Nat × Nat} {s t : State} {x : List Byte} (h : waveSet r s = .ok (t, x)) :
    t = { s with dir := s.dir.startWave r.1 r.2 } := by
  unfold waveSet at h
  split at h
  · cases h
  · split at h
    · cases h
    · split at h
      · cases h
      · split at h
        · cases h
        · cases h; rfl

theorem pointSet_ok {p : PointSettings} {s t : State} {x : List Byte} (h : pointSet p s = .ok (t, x)) :
    PointOk p = true ∧ t = { s with engine := { s.engine with point := p } } := by
  unfold pointSet at h
  split at h
  · cases h
  · split at h
    · cases h
    · rename_i hp _
      cases h; exact ⟨by simpa using hp, rfl⟩

theorem holdsRead_ok {start : Nat} {s t : State} {x : List Byte} (h : holdsRead start s = .ok (t, x)) : t = s := by
  unfold holdsRead at h
  dsimp only at h
  split at h <;> cases h
  rfl

/-- An accepted HOLD RESOLVE: an ADMIT writes the alias map and marks the entry, a REJECT writes a bar, counts and removes. -/
theorem holdResolve_ok {r : Layout.Resolve} {s t : State} {x : List Byte} (h : holdResolve r s = .ok (t, x)) :
    resolveRefusal r s = none ∧
      ((r.resolution ≠ 1 ∧ t = { s with
          dir := (resolveWrite r.chip r.bib s.dir).2, hold := s.hold.mark (fun e => e.chip == r.chip) }) ∨
       (r.resolution = 1 ∧ ∃ e, s.hold.find? r.chip = some e ∧ t = { s.count e.feed .barred with
          dir := (resolveWrite r.chip 0 s.dir).2, hold := s.hold.remove r.chip })) := by
  unfold holdResolve at h
  split at h
  · cases h
  · rename_i hr
    refine ⟨hr, ?_⟩
    split at h
    · rename_i h1
      refine .inr ⟨h1, ?_⟩
      cases hf : s.hold.find? r.chip with
      | none =>
        simp only [resolveRefusal, hf] at hr
        split at hr
        · cases hr
        · simp [h1] at hr
      | some e =>
        unfold acceptReject at h
        simp only [hf] at h
        cases h
        exact ⟨e, rfl, rfl⟩
    · rename_i h1
      refine .inl ⟨h1, ?_⟩
      unfold acceptAdmit at h
      cases h; rfl

theorem holdTimeoutSet_ok {minutes : Nat} {s t : State} {x : List Byte} (h : holdTimeoutSet minutes s = .ok (t, x)) :
    (1 ≤ minutes ∧ minutes ≤ 60) ∧ t = { s with hold := { s.hold with timeout := minutes } } := by
  unfold holdTimeoutSet at h
  split at h
  · cases h
  · cases h; exact ⟨by omega, rfl⟩

theorem splitsRead_ok {start : Nat} {s t : State} {x : List Byte} (h : splitsRead start s = .ok (t, x)) : t = s := by
  unfold splitsRead at h
  split at h
  · cases h
  · split at h <;> cases h
    rfl

theorem page_ok {a : Unit} {s t : State} {x : List Byte} (h : page a s = .ok (t, x)) :
    t = { s with board := (composePage s).1 } := by
  unfold page at h; cases h; rfl

theorem boardSet_ok {b : BoardSettings} {s t : State} {x : List Byte} (h : boardSet b s = .ok (t, x)) :
    BoardOk b = true ∧ t = { s with board := { s.board with settings := b } } := by
  unfold boardSet at h
  split at h <;> cases h
  exact ⟨by assumption, rfl⟩

theorem rotationSet_ok {sent : List (Nat × Nat)} {s t : State} {x : List Byte} (h : rotationSet sent s = .ok (t, x)) :
    ∃ slots, (1 ≤ sent.length ∧ sent.length ≤ 8) ∧ Layout.allSome (sent.map slotOf) = some slots ∧
      t = { s with board := { s.board with rotation := slots, slot := 0, pageCount := 0 } } := by
  unfold rotationSet at h
  split at h
  · cases h
  · split at h
    · cases h
    · rename_i slots hs
      cases h; exact ⟨slots, by omega, hs, rfl⟩

theorem patternSet_ok {n : Nat} {s t : State} {x : List Byte} (h : patternSet n s = .ok (t, x)) :
    n ≤ 7 ∧ t = { s with board := { s.board with pattern := n } } := by
  unfold patternSet at h
  split at h <;> cases h
  exact ⟨by omega, rfl⟩

theorem gunSet_ok {offset : Option Nat} {s t : State} {x : List Byte} (h : gunSet offset s = .ok (t, x)) :
    s.clock.epoch = none ∧ ∃ off, off ≤ s.now ∧ t = { s with clock := { s.clock with epoch := some (s.now - off) } } := by
  unfold gunSet at h
  dsimp only at h
  split at h
  · cases h
  · split at h
    · cases h
    · rename_i hr he
      cases h; exact ⟨by simpa using he, _, by omega, rfl⟩

theorem timeBeacon_ok {a : Unit} {s t : State} {x : List Byte} (h : timeBeacon a s = .ok (t, x)) : t = mark .beacon s := by
  unfold timeBeacon at h; cases h; rfl

/-- An accepted CLOCK SELECT clears the request, with a notice when there was one, or requests a source that is not current. -/
theorem clockSelect_ok {code : Nat} {s t : State} {x : List Byte} (h : clockSelect code s = .ok (t, x)) :
    t = { s with clock := { s.clock with requested := none } } ∨
      (∃ payload, t = State.notice { s with clock := { s.clock with requested := none } } Kind.clockNotice payload) ∨
      ∃ y, y ≠ s.clock.current ∧ t = { s with clock := { s.clock with requested := some y } } := by
  unfold clockSelect at h
  split at h
  · cases h
  · split at h
    · cases h
    · simp only [selectSource, Except.ok.injEq] at h
      split at h
      · split at h <;> cases h
        · exact .inr (.inl ⟨_, rfl⟩)
        · exact .inl rfl
      · rename_i hy
        split at h <;> cases h <;> exact .inr (.inr ⟨_, hy, rfl⟩)

theorem clockLock_ok {a : Unit} {s t : State} {x : List Byte} (h : clockLock a s = .ok (t, x)) :
    t = { s with clock := { s.clock with lock := true } } := by
  unfold clockLock at h; cases h; rfl

theorem clockFailClear_ok {a : Unit} {s t : State} {x : List Byte} (h : clockFailClear a s = .ok (t, x)) :
    t = { s with clock := { s.clock with clockFail := false } } := by
  unfold clockFailClear at h; cases h; rfl

theorem clockSetup_ok {r : Nat × Nat} {s t : State} {x : List Byte} (h : clockSetup r s = .ok (t, x)) :
    ∃ enable target owed,
      t = { s with clock := { s.clock with failSafe := enable, startTarget := target, fallbackDue := owed } } := by
  unfold clockSetup at h
  split at h
  · split at h <;> cases h
    exact ⟨_, _, _, rfl⟩
  · cases h

theorem withdraw_ok {bib : Nat} {s t : State} {x : List Byte} (h : withdraw bib s = .ok (t, x)) :
    t = { s with
      dir := s.dir.setRunnerState bib .withdrawn
      engine := s.engine.free bib
      log := s.log.append .voided bib none none SplitFlags.clear
      board := s.board.withdraw bib } := by
  unfold withdraw at h
  split at h
  · cases h
  · split at h
    · cases h
    · split at h <;> cases h
      rfl

theorem reinstate_ok {bib : Nat} {s t : State} {x : List Byte} (h : reinstate bib s = .ok (t, x)) :
    t = { s with
      dir := s.dir.setRunnerState bib .entered, log := s.log.append .reinstated bib none none SplitFlags.clear } := by
  unfold reinstate at h
  split at h
  · cases h
  · split at h
    · cases h
    · split at h <;> cases h
      rfl

theorem amend_ok {r : Nat × Nat × Nat} {s t : State} {x : List Byte} (h : amend r s = .ok (t, x)) :
    amendRefusal r.1 r.2.1 r.2.2 s = none ∧ t = (acceptAmend r.1 r.2.1 r.2.2 s).1 := by
  unfold amend at h
  split at h <;> cases h
  exact ⟨by assumption, rfl⟩

theorem crossingEnter_ok {r : Nat × Nat} {s t : State} {x : List Byte} (h : crossingEnter r s = .ok (t, x)) :
    enterRefusal r.1 r.2 s = none ∧ ∃ now, s.raceNow? = some now ∧ t = (post (manualInput r.1 r.2 s) now s).2 := by
  unfold crossingEnter at h
  split at h
  · cases h
  · cases h
  · rename_i now h1 h2
    cases h
    exact ⟨h1, now, h2, rfl⟩

/-- An accepted FAULT CLEAR empties the record of its class, and an ordinary one captures the next pending kind. -/
theorem faultClear_ok {c : Layout.Clear} {s t : State} {x : List Byte} (h : faultClear c s = .ok (t, x)) :
    t = releaseRecord s ∨ t = { s with faults := { s.faults with integrity := none } } := by
  unfold faultClear clearOrdinary clearIntegrity at h
  split at h
  · split at h
    · cases h
    · split at h <;> cases h
      exact .inl rfl
  · split at h
    · split at h
      · cases h
      · split at h <;> cases h
        exact .inr rfl
    · cases h

theorem integritySet_ok {code : Nat} {s t : State} {x : List Byte} (h : integritySet code s = .ok (t, x)) :
    ∃ on, t = { s with dir := { s.dir with integrityOn := on } } := by
  unfold integritySet at h
  split at h <;> cases h
  exact ⟨_, rfl⟩

theorem beginStore_ok {a : Unit} {s t : State} {x : List Byte} (h : beginStore a s = .ok (t, x)) :
    t = { s with setup := { s.setup with writing := some { copy := workingSettings s, began := s.now } } } := by
  unfold beginStore at h; cases h; rfl

end Sys2Proof.Machine
end

