-- ==== Sys2Proof/Laws/Shared.lean ====
section
/-! SUPPORT. What the shared operations of the blocks come to, case by case: a notice, an occurrence of a fault, a checked read
of a record, a posting, a request that is accepted or refused, and the cold start. -/

namespace Sys2Proof.Machine

-- One declaration after another: waiting threads would each hold a stack.
set_option Elab.async false

/-! ### Receiving -/

theorem setPort_port (s : State) (p : Port) : s.setPort p (s.port p) = s := by cases p <;> rfl

theorem gap_iff (ps : PortState) (now : Nat) :
    ps.gap now = true ↔ ps.line ≠ [] ∧ scan ps.line = .partialFrame ∧ ps.lastByteAt + gapBound < now := by
  simp only [PortState.gap, and_assoc, Bool.and_eq_true, bne_iff_ne, beq_iff_eq, decide_eq_true_eq]

theorem receive_nil (ps : PortState) (now : Nat) : ps.receive [] now = ps := if_pos rfl

/-- Bytes that come before a gap has expired join what was received. -/
theorem receive_joins {ps : PortState} {bytes : List Byte} {now : Nat} (h : bytes ≠ []) (hg : ps.gap now = false) :
    ps.receive bytes now = { ps with line := hunt (ps.line ++ bytes), lastByteAt := now } := by
  simp [PortState.receive, h, hg]

/-- Bytes that come after a gap has expired find the frame being assembled discarded and counted. -/
theorem receive_after_gap {ps : PortState} {bytes : List Byte} {now : Nat} (h : bytes ≠ []) (hg : ps.gap now = true) :
    ps.receive bytes now =
      { ps with line := hunt bytes, lastByteAt := now, discards := satAdd maxCount 1 ps.discards } := by
  simp [PortState.receive, h, hg, PortState.cutFrame, ((gap_iff _ _).mp hg).1, PortState.discard]

/-- Receiving changes the line, the time of the last byte and the discard count alone. -/
theorem receive_keeps (ps : PortState) (bytes : List Byte) (now : Nat) :
    (ps.receive bytes now).buffer = ps.buffer ∧ (ps.receive bytes now).inWork = ps.inWork ∧ (ps.receive bytes now).tx = ps.tx := by
  by_cases h : bytes = []
  · rw [h, receive_nil]
    exact ⟨rfl, rfl, rfl⟩
  · cases hg : ps.gap now
    · rw [receive_joins h hg]
      exact ⟨rfl, rfl, rfl⟩
    · rw [receive_after_gap h hg]
      exact ⟨rfl, rfl, rfl⟩

/-- Hunting passes bytes over and adds none. -/
theorem hunt_length_le (bytes : List Byte) : (hunt bytes).length ≤ bytes.length := List.length_dropWhile_le _ _

/-- A frame that arrives takes its bytes off the line. -/
theorem scan_arrived_lt {line rest : List Byte} {f : Frame} (h : scan line = .arrived f rest) : rest.length < line.length := by
  match line, h with
  | [], h => cases h
  | [_], h => cases h
  | [_, _], h => cases h
  | b :: l0 :: l1 :: body, h =>
    unfold scan at h
    dsimp only at h
    split at h
    · cases h
    · split at h
      · cases h
      · split at h
        · cases h
          simp only [List.length_drop, List.length_cons]
          omega
        · cases h

/-- After an arrival the port hunts on in what followed the frame. -/
theorem arrive_line (p : Port) (f : Frame) (rest : List Byte) (s : State) : ((arrive p f rest s).port p).line = hunt rest := by
  unfold arrive PortState.join
  dsimp only
  rw [setPort_port_same]
  split <;> rfl

theorem arrive_line_lt {p : Port} {f : Frame} {rest : List Byte} {s : State} (h : scan (s.port p).line = .arrived f rest) :
    ((arrive p f rest s).port p).line.length < (s.port p).line.length := by
  rw [arrive_line]
  exact (hunt_length_le rest).trans_lt (scan_arrived_lt h)

theorem discardFrame_line_lt {ps : PortState} (h : ps.line ≠ []) : ps.discardFrame.line.length < ps.line.length := by
  have hl : 0 < ps.line.length := List.length_pos_iff.mpr h
  refine (hunt_length_le _).trans_lt ?_
  rw [List.length_drop]
  omega

/-- What holds of a state, and is kept by an arrival and by a discard, holds of the state once the line is settled. -/
theorem settleLine_induct {p : Port} (P : State → Prop) (ha : ∀ s f rest, P s → P (arrive p f rest s))
    (hd : ∀ s, P s → P (s.setPort p (s.port p).discardFrame)) (n : Nat) {s : State} (h : P s) : P (settleLine p n s) := by
  induction n generalizing s with
  | zero => exact h
  | succ n ih =>
    unfold settleLine
    split
    · exact ih (ha _ _ _ h)
    · exact ih (hd _ h)
    · exact ih (hd _ h)
    · exact h

/-- A settled line is hunting or assembling. -/
theorem settleLine_partial {p : Port} {n : Nat} {s : State} (h : (s.port p).line.length ≤ n) :
    scan ((settleLine p n s).port p).line = .partialFrame := by
  induction n generalizing s with
  | zero =>
    have hl : (s.port p).line = [] := List.length_eq_zero_iff.mp (Nat.le_zero.mp h)
    unfold settleLine
    rw [hl]
    rfl
  | succ n ih =>
    have shorter (hl : (s.port p).line ≠ []) : ((s.setPort p (s.port p).discardFrame).port p).line.length ≤ n := by
      have := discardFrame_line_lt hl
      rw [setPort_port_same]
      omega
    unfold settleLine
    split
    · rename_i f rest hs
      have := arrive_line_lt hs
      exact ih (by omega)
    · rename_i hs
      exact ih (shorter (fun hl => by rw [hl] at hs; cases hs))
    · rename_i hs
      exact ih (shorter (fun hl => by rw [hl] at hs; cases hs))
    · assumption

/-- A settled line stays as it is. -/
theorem settleLine_of_partial {p : Port} {s : State} (n : Nat) (h : scan (s.port p).line = .partialFrame) :
    settleLine p n s = s := by
  cases n with
  | zero => rfl
  | succ n =>
    unfold settleLine
    rw [h]

/-- Settling goes on from where it stopped. -/
theorem settleLine_add (p : Port) (m n : Nat) (s : State) : settleLine p (m + n) s = settleLine p n (settleLine p m s) := by
  induction m generalizing s with
  | zero => rw [Nat.zero_add, settleLine]
  | succ m ih =>
    rw [Nat.succ_add]
    cases hs : scan (s.port p).line <;> simp only [settleLine, hs]
    case partialFrame => exact (settleLine_of_partial n hs).symm
    all_goals exact ih _

/-- Steps enough for the line settle it; more change nothing. -/
theorem settleLine_enough {p : Port} {m n : Nat} {s : State} (hm : (s.port p).line.length ≤ m) (hn : (s.port p).line.length ≤ n) :
    settleLine p m s = settleLine p n s := by
  obtain ⟨a, rfl⟩ := Nat.exists_eq_add_of_le hm
  obtain ⟨b, rfl⟩ := Nat.exists_eq_add_of_le hn
  rw [settleLine_add, settleLine_add, settleLine_of_partial a (settleLine_partial le_rfl),
    settleLine_of_partial b (settleLine_partial le_rfl)]

/-! ### Notices and faults -/

theorem notice_placed {s : State} (kind : Byte) (payload : List Byte) (h : (s.port .c).notices < noticeCap) :
    s.notice kind payload = s.setPort .c ((s.port .c).place ⟨kind, 0#16, payload⟩ false) := if_pos h

theorem notice_full {s : State} (kind : Byte) (payload : List Byte) (h : noticeCap ≤ (s.port .c).notices) :
    s.notice kind payload = s := if_neg (Nat.not_lt.mpr h)

/-- An occurrence while a kind is held changes the fault set alone. -/
theorem raiseFault_counts {s : State} {r : FaultRecord} (k : FaultKind) (detail : Nat) (h : s.faults.record = some r) :
    ∃ item, raiseFault k detail s = { s with faults := { s.faults with set := s.faults.set.put k item } } ∧
      item.count = satAdd 255 1 (s.faults.set.get k).count := by
  unfold raiseFault
  rw [h]
  dsimp only
  split
  · exact ⟨_, rfl, rfl⟩
  · exact ⟨_, rfl, rfl⟩

/-- An occurrence while the record is empty is captured and announced. -/
theorem raiseFault_captures {s : State} (k : FaultKind) (detail : Nat) (h : s.faults.record = none) :
    raiseFault k detail s = capture
      (s.faults.set.put k { s.faults.set.get k with
        count := satAdd 255 1 (s.faults.set.get k).count, first := some (s.now, detail) }) ⟨k, s.now, detail⟩ s := by
  unfold raiseFault
  rw [h]

/-! ### Reading a record with its check -/

theorem readChecked_passes {s : State} {bib : Nat}
    (h : s.dir.integrityOn = false ∨ (s.dir.record bib).codedFor = (s.dir.record bib).fields) :
    readChecked bib s = ((s.dir.record bib).fields, s) := by
  unfold readChecked
  dsimp only
  rw [if_neg]
  rcases h with h | h <;> simp [RunnerRecord.passes, h]

theorem readChecked_fails {s : State} {bib : Nat} (h : s.dir.integrityOn = true)
    (hc : (s.dir.record bib).codedFor ≠ (s.dir.record bib).fields) :
    readChecked bib s = ({ (s.dir.record bib).fields with suspect := true },
      integrityFailure bib { s with dir := s.dir.write bib { (s.dir.record bib).fields with suspect := true } }) := by
  unfold readChecked
  dsimp only
  rw [if_pos]
  simp only [RunnerRecord.passes, h, Bool.true_and, Bool.not_eq_true', decide_eq_false_iff_not]
  exact hc

/-- A checked read keeps the waves, and the fields it answers differ from those stored in `suspect` alone. -/
theorem readChecked_keeps (bib : Nat) (s : State) :
    (readChecked bib s).2.dir.waves = s.dir.waves ∧
      ((readChecked bib s).1 = (s.dir.record bib).fields ∨
        (readChecked bib s).1 = { (s.dir.record bib).fields with suspect := true }) := by
  unfold readChecked
  dsimp only
  split
  · refine ⟨?_, .inr rfl⟩
    unfold integrityFailure
    dsimp only
    split
    · simp only [notice_dir]
      rfl
    · rfl
  · exact ⟨rfl, .inl rfl⟩

/-! ### Postings -/

/-- A posting takes the next sequence and keeps the pass and time it was handed. -/
theorem post_seq (i : PostInput) (raceNow : Nat) (s : State) :
    (post i raceNow s).1.seq = s.log.newest + 1 ∧ (post i raceNow s).1.figures.pass = i.pass ∧
      (post i raceNow s).1.figures.time = i.time := by
  have h : (readChecked i.bib s).2.log = s.log := by simp
  unfold post
  dsimp only
  rw [h]
  exact ⟨rfl, rfl, rfl⟩

/-! ### Requests -/

/-- A request that its port takes, whose content fits and whose role is right, is answered by its block. -/
theorem serve_acts {α : Type} {s : State} {p : Port} {f : Frame} {rest : List Frame} {row : Frame → Bool}
    {layout : List Byte → Option α} {a : α} (act : α → State → Reply) (h : s.Asks p f rest) (hr : row f = true)
    (hl : layout f.payload = some a) (hk : Kind.taken p.role f.kind = true) :
    serve p row layout act s = .next (answered p f (s.taken p rest) (act a (s.taken p rest))) := by
  rw [serve_of_asks _ _ h hr, checked_fits _ _ hl hk]

theorem answered_refused {p : Port} {f : Frame} {s : State} {r : Reply} {e : Reason} (h : r = .error e) :
    answered p f s r = s.refuse p f e := by rw [h]; rfl

theorem answered_accepted {p : Port} {f : Frame} {s t : State} {r : Reply} {x : List Byte} (h : r = .ok (t, x)) :
    answered p f s r = t.ack p f x := by rw [h]; rfl

end Sys2Proof.Machine

/-! ### The cold start -/

namespace Sys2Proof.Laws

open Sys2Proof.Machine

/-- The machine right after reset is what a cold reset with both straps low and the rising edge give a new part (log entries
6 and 7). -/
theorem reset_is_cold_start (s : State) (h : s.setup = ⟨SetupBlock.unwritten, none⟩) (hp : s.pending = [])
    (hc : s.choices = 0) :
    ∃ t, exec (.coldReset false false) s = .next t ∧ exec .resetRisingEdge t = .next State.reset := by
  refine ⟨State.cold .baud115200 SetupBlock.unwritten, ?_, rfl⟩
  simp only [exec, execColdReset, h, hp, hc]
  rfl

end Sys2Proof.Laws
end

