-- ==== Sys2Proof/Laws/Stores.lean ====
section
/-! SUPPORT. The stores under the operations that change them: what is read back after a write, and that every operation keeps the
store within its capacity and in its form. -/

namespace Sys2Proof.Machine

-- One declaration after another: waiting threads would each hold a stack.
set_option Elab.async false

/-! ### Tables -/

namespace Table

theorem get?_put_same {V : Type} (t : List (Nat × V)) (k : Nat) (v : V) : get? (put t k v) k = some v := by
  induction t with
  | nil => simp [put, get?]
  | cons e rest ih =>
    obtain ⟨j, w⟩ := e
    unfold put
    split
    · simp [get?]
    · split
      · simp [get?]
      · rename_i h; simp [get?, h, ih]

theorem get?_put_other {V : Type} (t : List (Nat × V)) {k j : Nat} (v : V) (h : j ≠ k) : get? (put t k v) j = get? t j := by
  induction t with
  | nil => simp [put, get?, h.symm]
  | cons e rest ih =>
    obtain ⟨i, w⟩ := e
    unfold put
    split
    · simp [get?, h.symm]
    · split
      · rename_i hi; subst hi; simp [get?, h.symm]
      · simp [get?, ih]

theorem get?_erase_same {V : Type} (t : List (Nat × V)) (k : Nat) : get? (erase t k) k = none := by
  induction t with
  | nil => rfl
  | cons e rest ih =>
    obtain ⟨j, w⟩ := e
    unfold erase at *
    by_cases h : j = k
    · simp [h, ih]
    · simp [h, get?, ih]

theorem get?_erase_other {V : Type} (t : List (Nat × V)) {k j : Nat} (h : j ≠ k) : get? (erase t k) j = get? t j := by
  induction t with
  | nil => rfl
  | cons e rest ih =>
    obtain ⟨i, w⟩ := e
    unfold erase at *
    by_cases hi : i = k
    · subst hi; simp [get?, h.symm, ih]
    · simp [hi, get?, ih]

theorem mem_put {V : Type} {t : List (Nat × V)} {k : Nat} {v : V} {e : Nat × V} (h : e ∈ put t k v) : e = (k, v) ∨ e ∈ t := by
  induction t with
  | nil => simpa [put] using h
  | cons d rest ih =>
    obtain ⟨j, w⟩ := d
    unfold put at h
    split at h
    · simp only [List.mem_cons] at h ⊢; exact h
    · split at h
      · simp only [List.mem_cons] at h ⊢
        exact h.imp_right .inr
      · simp only [List.mem_cons] at h ⊢
        rcases h with h | h
        · exact .inr (.inl h)
        · exact (ih h).imp_right .inr

theorem wf_put {V : Type} {t : List (Nat × V)} (h : wf t) (k : Nat) (v : V) : wf (put t k v) := by
  induction t with
  | nil => simp [wf, put]
  | cons d rest ih =>
    obtain ⟨j, w⟩ := d
    simp only [wf, List.map_cons, List.pairwise_cons] at h ih
    unfold put
    split
    · rename_i hk
      simp only [wf, List.map_cons, List.pairwise_cons, List.mem_cons]
      refine ⟨?_, h⟩
      rintro a (rfl | ha)
      · exact hk
      · exact hk.trans (h.1 a ha)
    · split
      · rename_i hj; subst hj
        simp only [wf, List.map_cons, List.pairwise_cons]; exact h
      · rename_i hk hj
        simp only [wf, List.map_cons, List.pairwise_cons]
        refine ⟨?_, ih h.2⟩
        intro a ha
        obtain ⟨e, he, rfl⟩ := List.mem_map.mp ha
        rcases mem_put he with rfl | he
        · show j < k; omega
        · exact h.1 _ (List.mem_map_of_mem he)

theorem wf_erase {V : Type} {t : List (Nat × V)} (h : wf t) (k : Nat) : wf (erase t k) :=
  List.Pairwise.sublist (List.Sublist.map _ List.filter_sublist) h

end Table

/-! ### The runner directory -/

theorem Directory.record_setRecord (d : Directory) (bib : Nat) (r : RunnerRecord) : (d.setRecord bib r).record bib = r := by
  unfold Directory.setRecord Directory.record
  dsimp only
  split
  · rename_i h; subst h; simp [Table.get?_erase_same]
  · simp [Table.get?_put_same]

theorem Directory.record_setRecord_other (d : Directory) {bib b : Nat} (r : RunnerRecord) (h : b ≠ bib) :
    (d.setRecord bib r).record b = d.record b := by
  unfold Directory.setRecord Directory.record
  dsimp only
  split
  · simp [Table.get?_erase_other _ h]
  · simp [Table.get?_put_other _ _ h]

theorem Directory.record_write (d : Directory) (bib : Nat) (x : RecordFields) :
    (d.write bib x).record bib = { fields := x, codedFor := x } := d.record_setRecord bib _

theorem Directory.record_write_other (d : Directory) {bib b : Nat} (x : RecordFields) (h : b ≠ bib) :
    (d.write bib x).record b = d.record b := d.record_setRecord_other _ h

@[simp] theorem Directory.write_aliasMap (d : Directory) (bib : Nat) (x : RecordFields) :
    (d.write bib x).aliasMap = d.aliasMap := rfl
@[simp] theorem Directory.write_waves (d : Directory) (bib : Nat) (x : RecordFields) : (d.write bib x).waves = d.waves := rfl
@[simp] theorem Directory.write_places (d : Directory) (bib : Nat) (x : RecordFields) : (d.write bib x).places = d.places := rfl
@[simp] theorem Directory.write_integrityOn (d : Directory) (bib : Nat) (x : RecordFields) :
    (d.write bib x).integrityOn = d.integrityOn := rfl

theorem Directory.waveGun_startWave (d : Directory) (wave gun : Nat) : (d.startWave wave gun).waveGun wave = some gun :=
  Table.get?_put_same _ _ _

theorem Directory.waveGun_startWave_other (d : Directory) {wave w : Nat} (gun : Nat) (h : w ≠ wave) :
    (d.startWave wave gun).waveGun w = d.waveGun w := Table.get?_put_other _ _ h

theorem Directory.place_setPlace (d : Directory) (pass division n : Nat) :
    (d.setPlace pass division n).place pass division = n := by
  simp [Directory.place, Directory.setPlace, Table.get?_put_same]

theorem Directory.place_setPlace_other (d : Directory) {pass division p e : Nat} (n : Nat) (h : (p, e) ≠ (pass, division))
    (hd : division ≤ 7) (he : e ≤ 7) : (d.setPlace pass division n).place p e = d.place p e := by
  have hk : placeKey p e ≠ placeKey pass division := by
    unfold placeKey
    intro hk
    exact h (Prod.ext (by dsimp only; omega) (by dsimp only; omega))
  simp [Directory.place, Directory.setPlace, Table.get?_put_other _ _ hk]

theorem Directory.Canonical.setRecord {d : Directory} (h : d.Canonical) (bib : Nat) (r : RunnerRecord) :
    (d.setRecord bib r).Canonical := by
  obtain ⟨h1, h2, h3, h4⟩ := h
  unfold Directory.setRecord
  split
  · exact ⟨Table.wf_erase h1 _, h2, h3, fun e he => h4 e (List.mem_of_mem_filter he)⟩
  · rename_i hr
    refine ⟨Table.wf_put h1 _ _, h2, h3, fun e he => ?_⟩
    rcases Table.mem_put he with rfl | he
    · exact hr
    · exact h4 e he

theorem Directory.Canonical.write {d : Directory} (h : d.Canonical) (bib : Nat) (x : RecordFields) :
    (d.write bib x).Canonical := h.setRecord bib _

theorem Directory.Canonical.startWave {d : Directory} (h : d.Canonical) (wave gun : Nat) : (d.startWave wave gun).Canonical :=
  ⟨h.1, Table.wf_put h.2.1 _ _, h.2.2.1, h.2.2.2⟩

theorem Directory.Canonical.setPlace {d : Directory} (h : d.Canonical) (pass division n : Nat) :
    (d.setPlace pass division n).Canonical := ⟨h.1, h.2.1, Table.wf_put h.2.2.1 _ _, h.2.2.2⟩

/-- The code an alias map holds, and the codes it does not. -/
theorem Directory.aliasOf_none {d : Directory} {chip : Nat} : d.aliasOf chip = none ↔ ∀ e ∈ d.aliasMap, e.1 ≠ chip := by
  simp [Directory.aliasOf]

theorem Directory.aliasOf_isSome {d : Directory} {chip : Nat} :
    (d.aliasOf chip).isSome = true ↔ ∃ e ∈ d.aliasMap, e.1 = chip := by
  simp [Directory.aliasOf]

theorem Directory.writeAlias_keeps (d : Directory) (chip bib : Nat) :
    (d.writeAlias chip bib).2 = { d with aliasMap := (d.writeAlias chip bib).2.aliasMap } := by
  unfold Directory.writeAlias
  split
  · rfl
  · split <;> rfl

theorem Directory.AliasOk.writeAlias {d : Directory} (h : d.AliasOk) {chip bib : Nat} (hc : maxBib < chip) (hb : bib ≤ maxBib) :
    (d.writeAlias chip bib).2.AliasOk := by
  obtain ⟨h1, h2, h3⟩ := h
  unfold Directory.writeAlias
  split
  · refine ⟨by simpa using h1, ?_, ?_⟩
    · have hm : (d.aliasMap.map (fun e => if e.1 = chip then (chip, bib) else e)).map Prod.fst = d.aliasMap.map Prod.fst := by
        rw [List.map_map]
        refine List.map_congr_left fun e _ => ?_
        dsimp only [Function.comp]
        split <;> simp_all
      dsimp only
      rw [hm]; exact h2
    · intro e he
      obtain ⟨x, hx, rfl⟩ := List.mem_map.mp he
      split
      · exact ⟨hc, hb⟩
      · exact h3 x hx
  · rename_i hn
    split
    · rename_i hl
      refine ⟨by simp only [List.length_append, List.length_cons, List.length_nil]; omega, ?_, ?_⟩
      · simp only [List.map_append, List.map_cons, List.map_nil]
        rw [List.nodup_append]
        refine ⟨h2, by simp, ?_⟩
        intro a ha b hb' hab
        simp only [List.mem_cons, List.not_mem_nil, or_false] at hb'
        obtain ⟨e, he, rfl⟩ := List.mem_map.mp ha
        exact hn (Directory.aliasOf_isSome.mpr ⟨e, he, by rw [hab, hb']⟩)
      · intro e he
        rcases List.mem_append.mp he with he | he
        · exact h3 e he
        · simp only [List.mem_cons, List.not_mem_nil, or_false] at he
          subst he; exact ⟨hc, hb⟩
    · exact ⟨h1, h2, h3⟩

theorem Directory.AliasOk.clear {d : Directory} (h : d.AliasOk) (p : Nat × Nat → Bool) :
    ({ d with aliasMap := d.aliasMap.filter p } : Directory).AliasOk :=
  ⟨(List.length_filter_le _ _).trans h.1, h.2.1.sublist (List.Sublist.map _ List.filter_sublist),
    fun e he => h.2.2 e (List.mem_of_mem_filter he)⟩

/-! ### The open crossing table -/

theorem Engine.find?_some {e : Engine} {bib : Nat} {c : OpenCrossing} (h : e.find? bib = some c) :
    c ∈ e.crossings ∧ c.bib = bib :=
  ⟨List.mem_of_find?_eq_some h, by simpa using List.find?_some h⟩

theorem Engine.find?_none {e : Engine} {bib : Nat} : e.find? bib = none ↔ ∀ c ∈ e.crossings, c.bib ≠ bib := by
  simp [Engine.find?]

/-- Crossings changed one by one, none of them in its bib. -/
theorem Engine.Ok.map {e : Engine} (h : e.Ok) {g : OpenCrossing → OpenCrossing} (hg : ∀ c, (g c).bib = c.bib) :
    ({ e with crossings := e.crossings.map g } : Engine).Ok := by
  refine ⟨by simpa using h.1, ?_⟩
  have hm : (e.crossings.map g).map OpenCrossing.bib = e.crossings.map OpenCrossing.bib := by
    rw [List.map_map]; exact List.map_congr_left fun c _ => hg c
  dsimp only
  rw [hm]; exact h.2

theorem Engine.Ok.replace {e : Engine} (h : e.Ok) (c : OpenCrossing) : (e.replace c).Ok := by
  refine h.map fun d => ?_
  split
  · rename_i hd; exact hd.symm
  · rfl

theorem Engine.Ok.free {e : Engine} (h : e.Ok) (bib : Nat) : (e.free bib).Ok :=
  ⟨(List.length_filter_le _ _).trans h.1, h.2.sublist (List.Sublist.map _ List.filter_sublist)⟩

theorem Engine.Ok.open {e : Engine} (h : e.Ok) {c : OpenCrossing} (hn : e.find? c.bib = none)
    (hl : e.crossings.length < crossingCap) : ({ e with crossings := e.crossings ++ [c] } : Engine).Ok := by
  refine ⟨by simp only [List.length_append, List.length_cons, List.length_nil]; omega, ?_⟩
  simp only [List.map_append, List.map_cons, List.map_nil]
  rw [List.nodup_append]
  refine ⟨h.2, by simp, ?_⟩
  intro a ha b hb hab
  simp only [List.mem_cons, List.not_mem_nil, or_false] at hb
  obtain ⟨d, hd, rfl⟩ := List.mem_map.mp ha
  exact Engine.find?_none.mp hn d hd (hab.trans hb)

theorem Engine.Ok.waitingEnded {e : Engine} (h : e.Ok) (f : Feed) (now : Nat) : (e.waitingEnded f now).Ok := by
  refine h.map fun c => ?_
  split <;> rfl

/-! ### The hold unit -/

theorem HoldUnit.find?_some {h : HoldUnit} {chip : Nat} {e : HoldEntry} (hf : h.find? chip = some e) :
    e ∈ h.list ∧ e.chip = chip :=
  ⟨List.mem_of_find?_eq_some hf, by simpa using List.find?_some hf⟩

theorem HoldUnit.find?_none {h : HoldUnit} {chip : Nat} : h.find? chip = none ↔ ∀ e ∈ h.list, e.chip ≠ chip := by
  simp [HoldUnit.find?]

/-- Entries changed one by one, none of them in its chip code. -/
theorem HoldUnit.Ok.map {h : HoldUnit} (ok : h.Ok) {g : HoldEntry → HoldEntry} (hg : ∀ e, (g e).chip = e.chip) :
    ({ h with list := h.list.map g } : HoldUnit).Ok := by
  obtain ⟨h1, h2, h3, h4⟩ := ok
  have hm : (h.list.map g).map HoldEntry.chip = h.list.map HoldEntry.chip := by
    rw [List.map_map]; exact List.map_congr_left fun c _ => hg c
  refine ⟨by simpa using h1, by dsimp only; rw [hm]; exact h2, h3, fun hl => h4 (by simpa using hl)⟩

theorem HoldUnit.Ok.mark {h : HoldUnit} (ok : h.Ok) (which : HoldEntry → Bool) : (h.mark which).Ok := by
  refine ok.map fun e => ?_
  split <;> rfl

@[simp] theorem HoldUnit.remove_list (h : HoldUnit) (chip : Nat) :
    (h.remove chip).list = h.list.filter (fun e => e.chip != chip) := by
  unfold HoldUnit.remove HoldUnit.settle; split <;> rfl

@[simp] theorem HoldUnit.remove_release (h : HoldUnit) (chip : Nat) : (h.remove chip).release = h.release := by
  unfold HoldUnit.remove HoldUnit.settle; split <;> rfl

@[simp] theorem HoldUnit.remove_timeout (h : HoldUnit) (chip : Nat) : (h.remove chip).timeout = h.timeout := by
  unfold HoldUnit.remove HoldUnit.settle; split <;> rfl

theorem HoldUnit.Ok.remove {h : HoldUnit} (ok : h.Ok) (chip : Nat) : (h.remove chip).Ok := by
  obtain ⟨h1, h2, h3, h4⟩ := ok
  refine ⟨?_, ?_, ?_, ?_⟩
  · rw [HoldUnit.remove_list]; exact (List.length_filter_le _ _).trans h1
  · rw [HoldUnit.remove_list]; exact h2.sublist (List.Sublist.map _ List.filter_sublist)
  · rw [HoldUnit.remove_release]; exact h3
  · intro hl
    rw [HoldUnit.remove_list] at hl
    simp [HoldUnit.remove, HoldUnit.settle, hl]

theorem HoldUnit.Ok.add {h : HoldUnit} (ok : h.Ok) {e : HoldEntry} (hn : h.find? e.chip = none) (hl : h.list.length < holdCap) :
    ({ h with list := h.list ++ [e] } : HoldUnit).Ok := by
  obtain ⟨h1, h2, h3, h4⟩ := ok
  refine ⟨by simp only [List.length_append, List.length_cons, List.length_nil]; omega, ?_, h3, by simp⟩
  simp only [List.map_append, List.map_cons, List.map_nil]
  rw [List.nodup_append]
  refine ⟨h2, by simp, ?_⟩
  intro a ha b hb hab
  simp only [List.mem_cons, List.not_mem_nil, or_false] at hb
  obtain ⟨d, hd, rfl⟩ := List.mem_map.mp ha
  exact HoldUnit.find?_none.mp hn d hd (hab.trans hb)

/-! ### The split log and the lanes -/

theorem SplitLog.append_entries_length (l : SplitLog) (kind : EntryKind) (bib : Nat) (figs : Option Figures) (place : Option Nat)
    (flags : SplitFlags) (h : l.entries.length ≤ logCap) :
    (l.append kind bib figs place flags).entries.length = min logCap (l.entries.length + 1) := by
  unfold SplitLog.append
  dsimp only
  split
  · rename_i hc
    rw [List.length_append, List.length_drop, List.length_singleton]
    simp only [logCap] at *
    omega
  · rename_i hc
    rw [List.length_append, List.length_singleton]; omega

theorem SplitLog.Ok.append {l : SplitLog} (h : l.Ok) (kind : EntryKind) (bib : Nat) (figs : Option Figures)
    (place : Option Nat) (flags : SplitFlags) : (l.append kind bib figs place flags).Ok := by
  obtain ⟨h1, h2, h3⟩ := h
  have hlen := l.append_entries_length kind bib figs place flags h1
  have hb : min logCap (l.entries.length + 1) ≤ l.newest + 1 := by omega
  refine ⟨by rw [hlen]; exact Nat.min_le_left _ _, by rw [hlen]; exact hb, ?_⟩
  rw [hlen]
  unfold SplitLog.append
  dsimp only
  split
  · rename_i hc
    have hx : l.entries.length + 1 - logCap = 1 := by omega
    obtain ⟨n, hn⟩ : ∃ n, l.entries.length = n + 1 := ⟨l.entries.length - 1, by simp only [logCap] at *; omega⟩
    simp only [List.map_append, List.map_drop, List.map_cons, List.map_nil, h3, hx]
    rw [show min logCap (l.entries.length + 1) = n + 1 by omega, hn, List.range'_succ, List.range'_1_concat]
    rw [hn] at h2
    show List.range' (l.newest + 1 - (n + 1) + 1) n ++ [l.newest + 1] = _
    rw [show l.newest + 1 - (n + 1) + 1 = l.newest + 1 + 1 - (n + 1) by omega,
      show l.newest + 1 + 1 - (n + 1) + n = l.newest + 1 by omega]
  · rename_i hc
    rw [show min logCap (l.entries.length + 1) = l.entries.length + 1 by omega, List.range'_1_concat]
    simp only [List.map_append, List.map_cons, List.map_nil, h3]
    rw [show l.newest + 1 + 1 - (l.entries.length + 1) = l.newest + 1 - l.entries.length by omega]
    congr 2
    omega

theorem laneAdd_length {cap : Nat} (lane : List BoardPosting) (post : BoardPosting) (h : lane.length ≤ cap) (hc : 1 ≤ cap) :
    (laneAdd cap lane post).length ≤ cap := by
  unfold laneAdd
  split <;> simp only [List.length_append, List.length_drop, List.length_cons, List.length_nil] <;> omega

theorem Board.LanesOk.offer {b : Board} (h : b.LanesOk) (now : Nat) (post : BoardPosting) : (b.offer now post).LanesOk := by
  obtain ⟨h1, h2, h3, h4⟩ := h
  unfold Board.offer
  dsimp only
  split
  · exact ⟨laneAdd_length _ _ h1 (by decide), h2, h3, h4⟩
  · split
    · exact ⟨h1, laneAdd_length _ _ h2 (by decide), h3, h4⟩
    · refine ⟨h1, h2, laneAdd_length _ _ h3 (by decide), ?_⟩
      dsimp only
      split
      · unfold satAdd; omega
      · exact h4

/-! ### The fault unit -/

@[simp] theorem FaultSet.get_put_same (x : FaultSet) (k : FaultKind) (i : FaultItem) : (x.put k i).get k = i := by
  cases k <;> rfl

theorem FaultSet.get_put_other (x : FaultSet) {k j : FaultKind} (i : FaultItem) (h : j ≠ k) : (x.put k i).get j = x.get j := by
  cases k <;> cases j <;> first | rfl | exact absurd rfl h

theorem mem_faultKinds (k : FaultKind) : k ∈ faultKinds := by cases k <;> decide

theorem FaultUnit.Ok.raise {s : State} (h : s.faults.Ok) (k : FaultKind) (detail : Nat) : (raiseFault k detail s).faults.Ok := by
  obtain ⟨h1, h2, h3⟩ := h
  have hk := h1 k (mem_faultKinds k)
  have hc : satAdd 255 1 (s.faults.set.get k).count ≤ 255 := by unfold satAdd; omega
  unfold raiseFault
  dsimp only
  split
  · rename_i hr
    simp only [capture, notice_faults]
    refine ⟨fun j hj => ?_, by simp, ?_⟩
    · by_cases hjk : j = k
      · subst hjk; simp only [FaultSet.get_put_same]; exact ⟨hc, fun _ => rfl⟩
      · simp only [FaultSet.get_put_other _ _ hjk]; exact h1 j hj
    · intro r hr'
      simp only [Option.mem_def, Option.some.injEq] at hr'
      subst hr'
      simp only [FaultSet.get_put_same]
      exact ⟨h2 hr k (mem_faultKinds k), trivial⟩
  · rename_i r hr
    have hr3 := h3 r hr
    refine ⟨fun j hj => ?_, by simp [hr], ?_⟩
    · by_cases hjk : j = k
      · subst hjk
        simp only [FaultSet.get_put_same]
        split
        · exact ⟨hc, hk.2⟩
        · exact ⟨hc, fun _ => rfl⟩
      · simp only [FaultSet.get_put_other _ _ hjk]; exact h1 j hj
    · intro r' hr'
      simp only [Option.mem_def, hr, Option.some.injEq] at hr'
      subst hr'
      by_cases hjk : r.kind = k
      · rw [if_pos (.inl hjk), hjk, FaultSet.get_put_same]
        rw [hjk] at hr3; exact hr3
      · simp only [FaultSet.get_put_other _ _ hjk]; exact hr3

theorem FaultUnit.Ok.release {s : State} (h : s.faults.Ok) : (releaseRecord s).faults.Ok := by
  obtain ⟨h1, h2, h3⟩ := h
  unfold releaseRecord
  dsimp only
  split
  · rename_i hn
    refine ⟨h1, fun _ k hk => ?_, by simp⟩
    have := List.find?_eq_none.mp hn k hk
    simpa using this
  · rename_i k hf
    have hp : (s.faults.set.get k).pending = true := by
      have := List.find?_some hf; simpa using this
    simp only [capture, notice_faults]
    refine ⟨fun j hj => ?_, by simp, ?_⟩
    · by_cases hjk : j = k
      · subst hjk; simp only [FaultSet.get_put_same]; exact ⟨(h1 j hj).1, by simp⟩
      · simp only [FaultSet.get_put_other _ _ hjk]; exact h1 j hj
    · intro r hr
      simp only [Option.mem_def, Option.some.injEq] at hr
      subst hr
      simp only [FaultSet.get_put_same]
      obtain ⟨x, hx⟩ := Option.isSome_iff_exists.mp ((h1 k (mem_faultKinds k)).2 hp)
      exact ⟨trivial, by simp [hx]⟩

theorem integrityFailure_kinds (bib : Nat) (s : State) :
    (integrityFailure bib s).faults = { s.faults with integrity := (integrityFailure bib s).faults.integrity } := by
  unfold integrityFailure
  split <;> simp

theorem FaultUnit.Ok.readChecked {s : State} (h : s.faults.Ok) (bib : Nat) : (readChecked bib s).2.faults.Ok := by
  unfold Machine.readChecked
  dsimp only
  split
  · rw [integrityFailure_kinds]; exact h
  · exact h

end Sys2Proof.Machine
end

