-- ==== Sys2Proof/Tests/Slice0.lean ====
section
/-! SUPPORT. Tests of the model: ill-formed commands, the manual's worked examples, and, for every obligation with hypotheses, a
state and operands that meet them, with boundary values for its clauses. -/

namespace Sys2Proof.Tests

-- One declaration after another: waiting threads would each hold a stack.
set_option Elab.async false

open Sys2Proof.Machine

/-! ### Small states -/

/-- A request with tag 7. -/
def frame (kind : Byte) (payload : List Byte) : Frame := ⟨kind, 7#16, payload⟩

/-- The state with one request in the port's buffer. -/
def asking (p : Port) (kind : Byte) (payload : List Byte) (s : State) : State :=
  s.setPort p { s.port p with buffer := [frame kind payload] }

/-- The port takes that request now. -/
abbrev Asked (p : Port) (kind : Byte) (payload : List Byte) (s : State) : Prop :=
  (asking p kind payload s).Asks p (frame kind payload) []

def clocked (f : Timebase → Timebase) (s : State) : State := { s with clock := f s.clock }

/-- Course time `t`, race epoch `epoch`. -/
def timed (t : Nat) (epoch : Option Nat) (s : State) : State :=
  clocked (fun c => { c with courseTime := t, epoch := epoch }) s

/-- The state after a next outcome, else the reset state. -/
def after : Result → State
  | .next t => t
  | .fault _ => State.reset
  | .refused _ => State.reset

/-- The newest frame in a port's transmit queue. -/
def newest (p : Port) (s : State) : Option Frame := ((s.port p).tx.getLast?).map TxFrame.frame

/-- A runner of a wave. -/
def runner (wave : Nat) : RecordFields := { initialFields with state := .entered, wave := wave }

/-- Race time 10,000,000, wave 1 started at 1,000, bib 5 in wave 1, bib 6 in wave 2 (WAITING), bib 7 WITHDRAWN, a two-pass
point, 2 empty lanes; course time is 3 ms off a whole second. -/
def race : State :=
  let s := timed 10000003 (some 3) State.reset
  { s with
    dir := (((s.dir.write 5 (runner 1)).write 6 (runner 2)).write 7 { runner 1 with state := .withdrawn }).startWave 1 1000
    engine := { s.engine with point := { defaultPoint with passes := 2 } } }

def postingOf (seq bib pass place : Nat) (featured : Bool) : BoardPosting :=
  { seq := seq, bib := bib, pass := pass, nameTag := 0, division := 0, chipSeconds := 100, pace := 5, place := place,
    flags := { SplitFlags.clear with featured := featured }, amended := false, shows := 0 }

def crossingOf (bib pass deadline : Nat) : OpenCrossing :=
  { bib := bib, pass := pass, opener := .a, seenA := true, seenB := false, time := 9000000, quality := .exact, held := false,
    openedAt := 9990000, deadline := deadline }

def holdOf (chip : Nat) (reason : HoldReason) (releasing : Bool) : HoldEntry :=
  { chip := chip, reason := reason, feed := .a, time := 5000, quality := .exact, count := 1, enteredAt := 9100003,
    releasing := releasing }

def withCrossing (c : OpenCrossing) (s : State) : State := { s with engine := { s.engine with crossings := [c] } }

def withHolds (l : List HoldEntry) (s : State) : State := { s with hold := { s.hold with list := l } }

def withQueue (x : Feed) (l : List Read) (s : State) : State := s.setFeed x { s.feed x with queue := l }

def entryOf (seq : Nat) : LogEntry :=
  { seq := seq, kind := .posted, bib := 5, figures := some ⟨1, 2000, 1000, 1000, 47⟩, place := some 3,
    flags := { SplitFlags.clear with held := true } }

/-- Bib 5 has made pass 1, whose POSTED entry, the second of the log, is retained. -/
def posted : State :=
  { race with
    dir := race.dir.write 5 { runner 1 with made := 1, last := some 2000 }
    log := { entries := [{ entryOf 1 with bib := 9 }, entryOf 2, { entryOf 3 with bib := 9 }], newest := 3 } }

/-! ### Ill-formed commands, which the check refuses -/

theorem test_wf_refuses_bib_zero : Instr.wf (.deadlineExpiry 0) = false := by decide
theorem test_wf_refuses_bib_too_high : Instr.wf (.deadlineExpiry 60001) = false := by decide
theorem test_wf_takes_last_bib : Instr.wf (.deadlineExpiry 60000) = true := by decide
theorem test_wf_refuses_chip_zero : Instr.wf (.holdTimeoutExpiry 0) = false := by decide
theorem test_wf_refuses_chip_too_high : Instr.wf (.holdTimeoutExpiry 4294967296) = false := by decide
theorem test_wf_refuses_upset_of_bib_zero : Instr.wf (.recordUpset 0 initialFields) = false := by decide
theorem test_wf_refuses_upset_wave : Instr.wf (.recordUpset 1 (runner 32)) = false := by decide
theorem test_wf_refuses_upset_division : Instr.wf (.recordUpset 1 { runner 1 with division := 8 }) = false := by decide
theorem test_wf_refuses_upset_name_tag : Instr.wf (.recordUpset 1 { runner 1 with nameTag := 65536 }) = false := by decide
theorem test_wf_refuses_upset_made : Instr.wf (.recordUpset 1 { runner 1 with made := 3, last := some 0 }) = false := by decide
theorem test_wf_refuses_upset_start : Instr.wf (.recordUpset 1 { runner 1 with start := some 86400001 }) = false := by decide
theorem test_wf_refuses_upset_last : Instr.wf (.recordUpset 1 { runner 1 with made := 1, last := some 86400001 }) = false := by
  decide
theorem test_wf_refuses_last_without_pass : Instr.wf (.recordUpset 1 { runner 1 with last := some 0 }) = false := by decide

/-! ### The course link (10, 12) -/

/-- The published check value of this generator and start value over the characters 1 to 9. -/
theorem test_crc_check_value :
    crc [0x31#8, 0x32#8, 0x33#8, 0x34#8, 0x35#8, 0x36#8, 0x37#8, 0x38#8, 0x39#8] = 0x29B1#16 := by decide +kernel

/-- A TIME frame with tag 7 on the line, byte by byte but for its CRC (R175). -/
theorem test_wire : (frame Kind.time []).wire.take 6 = [0xC3#8, 3#8, 0#8, 0x12#8, 7#8, 0#8] := by decide +kernel

theorem test_arrival_is_found_behind_noise :
    scan (hunt ([0x55#8, 0x00#8] ++ (frame Kind.time []).wire ++ [0x11#8])) = .arrived (frame Kind.time []) [0x11#8] := by
  decide +kernel

theorem test_length_bounds : scan [0xC3#8, 2#8, 0#8] = .badLength ∧ scan [0xC3#8, 3#8, 0#8] = .partialFrame ∧
    scan [0xC3#8, 0xFC#8, 3#8] = .partialFrame ∧ scan [0xC3#8, 0xFD#8, 3#8] = .badLength := by decide +kernel

/-- FAULT READ's answer fills 83 bytes and STATUS READ's 179, with the request's kind (R201). -/
theorem test_answer_lengths : (faultReadResults State.reset).length + 1 = 83 ∧ (statusResults State.reset).length + 1 = 179 := by
  decide +kernel

theorem test_no_row_has_bits : decodeTableWord 8 0 = none ∧ State.reset.withFetchWord 8 0 = State.reset := ⟨rfl, rfl⟩

/-! ### The two postings worked out in 05 section 5.5 -/

theorem test_first_posting :
    figures { defaultPoint with passes := 2 } 1 4799610 300000 none = ⟨1, 4799610, 4499610, 4499610, 213271⟩ ∧
    postingFlags defaultPoint (runner 1) 4799610 4801200 .tracked true false = ⟨false, true, false, false, false, true⟩ := by
  decide

theorem test_second_posting :
    figures defaultPoint 1 8410950 1500000 (some 1562300) = ⟨1, 8410950, 6910950, 6848650, 324611⟩ ∧
    postingFlags defaultPoint { runner 5 with start := some 1562300 } 8410950 8412100 .holdover false false =
      ⟨false, false, true, false, false, false⟩ := by decide

theorem test_its_amendment : figures defaultPoint 1 8410500 1500000 (some 1562300) = ⟨1, 8410500, 6910500, 6848200, 324590⟩ := by
  decide

/-- LATE: exceeds by more than the limit (R89). -/
theorem test_late_bound : lateFlag defaultPoint 1000 121000 = false ∧ lateFlag defaultPoint 1000 121001 = true := by decide

/-! ### Single steps -/

theorem test_gun_starts_race : newest .c (after (exec (.gunSet .c) (asking .c Kind.gunSet [1#8, 5#8, 0#8, 0#8, 0#8] (timed 5 none State.reset)))) =
    some ⟨Kind.ack, 7#16, [Kind.gunSet, 0#8, 0#8, 0#8, 0#8, 0#8, 0#8, 5#8, 0#8, 0#8, 0#8]⟩ := by decide +kernel

theorem test_read_opens_a_crossing :
    (after (exec .readJudgement (withQueue .a [⟨5, 9000000, .exact⟩] race))).engine.crossings =
      [⟨5, 1, .a, true, false, 9000000, .exact, false, 10000003, 10001003⟩] := by decide +kernel

theorem test_unknown_chip_is_held :
    (after (exec .readJudgement (withQueue .b [⟨70000, 9000000, .exact⟩] race))).hold.list.map HoldEntry.reason =
      [.unknownChip] := by decide +kernel

theorem test_settled_crossing_is_posted :
    ((after (exec (.deadlineExpiry 5) (withCrossing (crossingOf 5 1 10000003) race))).log.entries.map LogEntry.place) =
      [some 1] := by decide +kernel

theorem test_report_on_port_c_is_refused_role :
    newest .c (after (exec (.report .c) (asking .c Kind.report [1#8, 0#8, 5#8, 0#8, 0#8, 0#8, 0#8, 0#8, 0#8, 0#8] race))) =
      some ⟨Kind.refuse, 7#16, [Kind.report, 3#8, 0#8, 0#8, 0#8, 0#8, 0#8]⟩ := by decide +kernel

theorem test_course_time_ends :
    exec .leadSlew (clocked (fun c => { c with courseTime := maxCourseTime, lead := -1, oscMs := 1000 }) State.reset)
      = .fault .courseTimeEnds := rfl

/-! ### Hypotheses: the queue and the empty queue -/

theorem test_hyp_StepRunsFrontCommand : { State.reset with pending := [.syncMark] }.pending = .syncMark :: [] := rfl

theorem test_hyp_EmptyQueueStep :
    State.reset.pending = [] ∧ dueEvents State.reset = [] ∧ State.reset.held = false ∧ State.reset.now < maxCourseTime ∧
    (timed 1500 none State.reset).pending = [] ∧ dueEvents (timed 1500 none State.reset) ≠ [] ∧
    (State.cold .baud115200 SetupBlock.unwritten).pending = [] ∧ (State.cold .baud115200 SetupBlock.unwritten).held = true ∧
    (clocked (fun c => { c with fallbackDue := true }) State.reset).pending = [] ∧
    (clocked (fun c => { c with fallbackDue := true }) State.reset).held = false ∧
    (clocked (fun c => { c with fallbackDue := true }) State.reset).clock.fallbackDue = true := by
  decide +kernel

/-- Course time at its end with nothing due: the watches lie beyond it. -/
theorem test_hyp_EmptyQueueStep_end :
    let far (x : RefState) : RefState := { x with watch := maxCourseTime + 1 }
    let s := clocked (fun c => { c with courseTime := maxCourseTime, sync := far c.sync, beacon := far c.beacon }) State.reset
    s.pending = [] ∧ s.held = false ∧ dueEvents s = [] ∧ maxCourseTime ≤ s.now := by decide +kernel

/-- An XO in one state, with a count and a window's gap mark. -/
def xoCounting (x : SourceState) (count : Nat) (gap : Bool) : State := clocked (fun c => { c with xo := ⟨x, count, gap⟩ }) race

/-- A lead, and a moment of the second of the counting oscillator. -/
def leading (lead : Int) (oscMs : Nat) (s : State) : State := clocked (fun c => { c with lead := lead, oscMs := oscMs }) s

/-- Course time, and a request of the timebase beside a QUALIFIED XO. -/
def requesting (r : Option Source) (t : Nat) : State :=
  clocked (fun c => { c with requested := r, courseTime := t }) (xoCounting .qualified 0 false)

/-- Bytes on port A's line, the last of them received at course time 0. -/
def onLine (line : List Byte) (s : State) : State := s.setPort .a { s.port .a with line := line }

theorem test_hyp_UndueCommandsChangeNothing :
    (State.cold .baud115200 SetupBlock.unwritten).held = true ∧ State.reset.held = false ∧
    scan (State.reset.port .a).line = .partialFrame ∧ (State.reset.port .a).line = [] ∧ (State.reset.port .a).tx = [] ∧
    (timed 10 none (onLine [0xC3#8, 5#8] State.reset)).now ≤ ((onLine [0xC3#8, 5#8] State.reset).port .a).lastByteAt + 10 ∧
    State.reset.clock.epoch = none ∧ (State.reset.feed .a).link = .silent ∧ State.reset.hold.find? 5 = none ∧
    State.reset.hold.list = [] ∧ State.reset.board.lastOffer = none ∧ (runner 32).inRange = false := by decide +kernel

theorem test_hyp_UndueCommandsChangeNothing_clock :
    State.reset.now < (State.reset.clock.ref .sync).watch ∧ (xoCounting .qualified 65535 false).clock.xo.state ≠ .starting ∧
    (xoCounting .starting 65534 false).clock.xo.count < 65535 ∧ race.now % 1000 ≠ 0 ∧
    (clocked (fun c => { c with secondTaken := 10001000 }) (requesting none 10001000)).clock.secondTaken
      = (requesting none 10001000).now ∧
    race.clock.lead = 0 ∧ (leading 1 998 race).clock.oscMs ≠ 999 ∧ (leading (-1) 999 race).clock.oscMs < 1000 ∧
    (leading (-1) 1000 (requesting (some .xo) 10001000)).clock.requested = some .xo ∧
    (leading (-1) 1000 (requesting (some .xo) 10001000)).clock.sourceState .xo = .qualified ∧
    race.clock.fallbackDue = false ∧ race.setup.writing = none ∧ (race.port .c).inWork = none ∧ race.restartDue = false := by
  decide +kernel

/-- A request that is not the command's: port C asks TIME, and PAGE is commanded. -/
theorem test_hyp_UndueCommandsChangeNothing_request :
    let s := asking .c Kind.time [] State.reset
    (∀ f rest, s.Asks .c f rest → requestOf .c f ≠ .page .c) ∧ Instr.page .c ∈ requestRows .c := by
  refine ⟨?_, by decide +kernel⟩
  rintro f rest ⟨-, -, -, h⟩
  have e : [frame Kind.time []] = f :: rest := h
  cases e
  decide

theorem test_hyp_UndueCommandsChangeNothing_times :
    let s := State.reset.setFeed .a { State.reset.feed .a with link := .active, lastFrame := some 0 }
    (timed 4999 none s).now < 0 + 5000 ∧ ((timed 4999 none s).feed .a).lastFrame = some 0 ∧
    (withCrossing (crossingOf 5 1 10000004) race).engine.find? 5 = some (crossingOf 5 1 10000004) ∧
    race.now < (crossingOf 5 1 10000004).deadline ∧
    (withHolds [holdOf 5 .unknownChip true] race).hold.find? 5 = some (holdOf 5 .unknownChip true) ∧
    (∀ e ∈ (withHolds [holdOf 5 .unknownChip false] race).hold.list, e.releasing = false) := by decide +kernel

/-- Each event of the part that is due, at the boundary of its condition. -/
theorem test_due_at_its_bound :
    .frameArrival .a [] ∈ dueEvents (onLine (frame Kind.time []).wire State.reset) ∧
    .lengthDiscard .a [] ∈ dueEvents (onLine [0xC3#8, 2#8, 0#8] State.reset) ∧
    .crcDiscard .a [] ∈ dueEvents (onLine ((frame Kind.time []).wire.take 6 ++ [0#8, 0#8]) State.reset) ∧
    .gapExpiry .a ∈ dueEvents (timed 11 none (onLine [0xC3#8] State.reset)) ∧
    .gapExpiry .a ∉ dueEvents (timed 10 none (onLine [0xC3#8] State.reset)) ∧
    .time .a ∈ dueEvents (asking .a Kind.time [] State.reset) ∧
    .readJudgement ∈ dueEvents (withQueue .a [⟨5, 9, .exact⟩] race) ∧
    .deadlineExpiry 5 ∈ dueEvents (withCrossing (crossingOf 5 1 10000003) race) ∧
    .silenceExpiry .a ∈ dueEvents (timed 5000 none (State.reset.setFeed .a { State.reset.feed .a with link := .active, lastFrame := some 0 })) ∧
    .holdTimeoutExpiry 5 ∈ dueEvents (withHolds [holdOf 5 .unknownChip false] race) ∧
    .releaseMove ∈ dueEvents (withHolds [holdOf 5 .unknownChip true] race) ∧
    .quietExpiry ∈ dueEvents { race with board := { race.board with lastOffer := some 9940003 } } ∧
    .missingPeriod .sync ∈ dueEvents (timed 1500 none State.reset) ∧
    .missingPeriod .beacon ∉ dueEvents (timed 1499 none State.reset) := by decide +kernel

theorem test_due_at_its_bound_clock :
    .xoQualify ∈ dueEvents (xoCounting .starting 65535 false) ∧ .xoQualify ∉ dueEvents (xoCounting .starting 65534 false) ∧
    .switchCompletion ∈ dueEvents (requesting (some .xo) 10001000) ∧
    .switchCompletion ∉ dueEvents (requesting (some .sync) 10001000) ∧
    .leadSlew ∈ dueEvents (leading 1 999 race) ∧ .leadSlew ∉ dueEvents (leading 1 998 race) ∧
    .leadSlew ∈ dueEvents (leading (-1) 1000 race) ∧
    .leadSlew ∉ dueEvents (leading (-1) 1000 (requesting (some .xo) 10001000)) ∧
    .deferredFallback ∈ dueEvents (clocked (fun c => { c with fallbackDue := true }) race) ∧
    .setupWriteEnd ∈ dueEvents (timed 10000043 (some 3) (after (exec (.setupStore .c) (asking .c Kind.setupStore [] race)))) ∧
    .warmRestart .request ∈ dueEvents { race with restartDue := true } ∧
    .warmRestart .pulse ∉ dueEvents { race with restartDue := true } := by decide +kernel

/-! ### Hypotheses: the course link -/

theorem test_hyp_RequestsAreAnswered : Asked .a Kind.time [] State.reset ∧ Asked .b Kind.report [] State.reset ∧
    Asked .c Kind.setupStore [] State.reset ∧ Asked .d Kind.page [] State.reset := by decide +kernel

theorem test_hyp_RefusalOrder :
    (frame 0xFF#8 []).kind ∉ Kind.requests ∧ Asked .a 0xFF#8 [] State.reset ∧
    (frame Kind.time [1#8]).kind ∈ Kind.requests ∧ (frame Kind.time [1#8]).fits = false ∧
    (frame Kind.page []).fits = true ∧ Port.a.role = .feed ∧ Kind.page ∉ [Kind.report, Kind.matState, Kind.time, Kind.describe] ∧
    Port.d.role = .screen ∧ (frame Kind.statusRead []).fits = true ∧ Kind.statusRead ∉ [Kind.page, Kind.time, Kind.describe] ∧
    Port.c.role = .control ∧ (frame Kind.matState [1#8]).fits = true ∧
    Kind.matState ∈ [Kind.report, Kind.matState, Kind.page] := by decide +kernel

theorem test_hyp_FrameArrives :
    State.reset.held = false ∧ (State.reset.port .a).receive [] 0 = State.reset.port .a ∧
    scan ((State.reset.port .a).receive (frame Kind.time []).wire 0).line = .arrived (frame Kind.time []) [] ∧
    scan ((State.reset.port .a).receive [0xC3#8] 0).line = .partialFrame ∧
    ((onLine [0xC3#8, 5#8] State.reset).port .a).line ≠ [] ∧ scan ((onLine [0xC3#8, 5#8] State.reset).port .a).line = .partialFrame ∧
    ((onLine [0xC3#8, 5#8] State.reset).port .a).lastByteAt + 10 < 11 ∧
    (State.reset.setPort .a { State.reset.port .a with buffer := List.replicate 3 (frame Kind.time []) }).ports.a.buffer.length < 4 ∧
    ¬ (State.reset.setPort .a { State.reset.port .a with buffer := List.replicate 4 (frame Kind.time []) }).ports.a.buffer.length < 4 := by
  decide +kernel

/-- A frame begun, then a whole frame: joined to it within 10 ms; after 11 ms the first is discarded and the second arrives. -/
theorem test_gap_before_bytes :
    scan (((onLine [0xC3#8, 5#8] State.reset).port .a).receive (frame Kind.time []).wire 10).line = .badLength ∧
    (((onLine [0xC3#8, 5#8] State.reset).port .a).receive (frame Kind.time []).wire 11).discards = 1 ∧
    scan (((onLine [0xC3#8, 5#8] State.reset).port .a).receive (frame Kind.time []).wire 11).line = .arrived (frame Kind.time []) [] := by
  decide +kernel

/-- A frame that arrives in two pieces. -/
theorem test_two_pieces :
    ((after (exec (.frameArrival .a ((frame Kind.time []).wire.drop 3))
      (after (exec (.frameArrival .a ((frame Kind.time []).wire.take 3)) State.reset)))).port .a).buffer = [frame Kind.time []] := by
  decide +kernel

theorem test_hyp_FramesAreDiscarded :
    (let got (bytes : List Byte) := ((State.reset.port .a).receive bytes 0).line
     scan (got ((frame Kind.time []).wire.take 6 ++ [0#8, 0#8])) = .badCrc ∧ scan (got [0xC3#8, 2#8, 0#8]) = .badLength ∧
       scan (got ((frame Kind.time []).wire ++ [0xC3#8, 5#8])) = .arrived (frame Kind.time []) [0xC3#8, 5#8] ∧
       scan (got [0xC3#8, 5#8]) = .partialFrame ∧ got [0xC3#8, 5#8] ≠ [] ∧ got [5#8] = [] ∧ scan (got [5#8]) ≠ .badCrc) ∧
    (let s := timed 11 none (onLine [0xC3#8, 5#8] State.reset)
     (s.port .a).line ≠ [] ∧ scan (s.port .a).line = .partialFrame ∧ (s.port .a).lastByteAt + 10 < s.now ∧ s.held = false) := by
  decide +kernel

/-- What a framing error leaves on port A after `bytes`: the kinds buffered, the discards, the bytes kept. -/
def erred (bytes : List Byte) : List Byte × Nat × List Byte :=
  let ps := (after (exec (.framingError .a bytes) State.reset)).port .a
  (ps.buffer.map Frame.kind, ps.discards, ps.line)

/-- A frame ends before the error and another is cut; a damaged frame with a start byte buried in it counts twice. -/
theorem test_framing_error_settles :
    erred (frame Kind.time []).wire = ([Kind.time], 0, []) ∧
    erred ((frame Kind.time []).wire ++ [0xC3#8, 5#8]) = ([Kind.time], 1, []) ∧
    erred [0xC3#8, 3#8, 0#8, 0xC3#8, 9#8, 0#8, 1#8, 1#8] = ([], 2, []) := by decide +kernel

theorem test_hyp_TimeTaken : Asked .a Kind.time [] State.reset ∧ State.reset.clock.epoch = none ∧
    (timed 4294967298 (some 3) State.reset).now - 3 < 4294967296 ∧ 4294967296 ≤ (timed 4294967299 (some 3) State.reset).now - 3 ∧
    Asked .d Kind.time [] (timed 4294967299 (some 3) State.reset) := by decide +kernel

theorem test_hyp_DescribeTaken : Asked .a Kind.describe [0#8] State.reset ∧ Asked .b Kind.describe [1#8] State.reset ∧
    Asked .c Kind.describe [2#8] State.reset ∧ Asked .d Kind.describe [3#8] State.reset ∧
    (frame Kind.describe [3#8]).payload = [3#8] := by decide +kernel

/-! ### Hypotheses: feed intake -/

/-- A report of `n` clocked reads of chip 5 at time 9. -/
def clockedReport (n : Nat) : List Byte :=
  [BitVec.ofNat 8 n, 0#8] ++ (List.replicate n [5#8, 0#8, 0#8, 0#8, 9#8, 0#8, 0#8, 0#8]).flatten

theorem test_hyp_ReportTaken :
    (Layout.report (clockedReport 0)).map (fun r => r.reads.length) = some 0 ∧
    (Layout.report (clockedReport 33)).map (fun r => r.reads.length) = some 33 ∧
    Layout.report [1#8, 0#8, 0#8, 0#8, 0#8, 0#8, 9#8, 0#8, 0#8, 0#8] = some ⟨false, 0, [(0, 9)]⟩ ∧
    Layout.report [1#8, 8#8, 5#8, 0#8, 0#8, 0#8, 9#8, 0#8, 0#8, 0#8] = some ⟨false, 4, [(5, 9)]⟩ ∧
    Layout.report [1#8, 0#8, 5#8, 0#8, 0#8, 0#8, 1#8, 0x5C#8, 0x26#8, 5#8] = some ⟨false, 0, [(5, 86400001)]⟩ ∧
    Layout.report [1#8, 1#8, 5#8, 0#8, 0#8, 0#8, 0#8, 0#8, 0#8, 0#8] = some ⟨true, 0, [(5, 0)]⟩ ∧
    Asked .a Kind.report (clockedReport 1) race ∧ Port.a.feed? = some .a ∧ race.clock.epoch = some 3 ∧
    State.reset.clock.epoch = none ∧ 86400000 < (timed 86400001 (some 0) State.reset).now - 0 := by decide +kernel

/-- A queue of 511 reads takes one more; one of 512 does not. -/
theorem test_hyp_ReportTaken_full :
    let n := (withQueue .a (List.replicate 511 ⟨5, 9, .exact⟩) race).feeds.a.queue.length
    n + 1 ≤ 512 ∧ 512 < (n + 1) + 1 := by decide +kernel

theorem test_hyp_WaitingEnds :
    Asked .a Kind.matState [2#8] race ∧ Asked .a Kind.matState [1#8] race ∧ Asked .a Kind.matState [0#8] race ∧
    (race.feed .a).link = .silent ∧ (race.feed .a).mat = .armed ∧
    (let s := race.setFeed .b { race.feed .b with link := .active, lastFrame := some 9995003 }
     s.held = false ∧ (s.feed .b).link = .active ∧ (s.feed .b).lastFrame = some 9995003 ∧ 9995003 + 5000 ≤ s.now ∧
       Asked .b Kind.matState [0#8] s) := by decide +kernel

/-! ### Hypotheses: the runner directory -/

theorem test_hyp_StoredContentReadsBack : race.dir.Canonical ∧ (7 : Nat) ≤ 7 ∧ (5 : Nat) ≠ 4 ∧ (2, 1) ≠ ((1, 2) : Nat × Nat) ∧
    (runner 31).inRange = true ∧ bibOk 1 = true ∧ bibOk 60000 = true := by decide +kernel

/-- A load record for a bib in wave 1. -/
def loadOf (bib : Nat) : Layout.LoadRecord := ⟨bib, 1, 0, 0, 0, none⟩

theorem test_hyp_RunnerLoadTaken :
    Layout.runnerLoad [1#8, 0#8, 5#8, 0#8, 1#8, 0#8, 0#8, 0#8, 0#8, 0#8, 0#8, 0#8, 0#8, 0#8] = some [loadOf 5] ∧
    Layout.runnerLoad [1#8, 0#8, 7#8, 0#8, 1#8, 0#8, 0#8, 0#8, 0#8, 0#8, 0#8, 0#8, 0#8, 0#8] = some [loadOf 7] ∧
    Layout.runnerLoad [0#8, 0#8] = some [] ∧ (race.dir.record 7).fields.state = .withdrawn ∧
    (race.dir.record 5).fields.state ≠ .withdrawn ∧
    Asked .c Kind.runnerLoad [1#8, 0#8, 5#8, 0#8, 1#8, 0#8, 0#8, 0#8, 0#8, 0#8, 0#8, 0#8, 0#8, 0#8] race := by decide +kernel

/-- Bib 5's stored content upset, so that it fails its check. -/
def upset : State := after (exec (.recordUpset 5 (runner 3)) race)

theorem test_hyp_RunnerReadTaken :
    Layout.one 2 [0#8, 0#8] = some 0 ∧ Layout.one 2 [0x61#8, 0xEA#8] = some 60001 ∧ Layout.one 2 [5#8, 0#8] = some 5 ∧
    Asked .c Kind.runnerRead [5#8, 0#8] race ∧ (race.dir.record 5).codedFor = (race.dir.record 5).fields ∧
    Asked .c Kind.runnerRead [5#8, 0#8] upset ∧ upset.dir.integrityOn = true ∧
    (upset.dir.record 5).codedFor ≠ (upset.dir.record 5).fields ∧ upset.faults.integrity = none ∧
    { upset with faults := { upset.faults with integrity := some ⟨9, 0, 255⟩ } }.faults.integrity = some ⟨9, 0, 255⟩ := by
  decide +kernel

def aliased (n : Nat) : State :=
  { race with dir := { race.dir with aliasMap := (List.range n).map (fun i => (60001 + i, 5)) } }

theorem test_hyp_AliasRequestsTaken :
    Layout.aliasSet [0x60#8, 0xEA#8, 0#8, 0#8, 5#8, 0#8] = some (60000, 5) ∧
    Layout.aliasSet [0x61#8, 0xEA#8, 0#8, 0#8, 5#8, 0#8] = some (60001, 5) ∧
    Asked .c Kind.aliasSet [0x61#8, 0xEA#8, 0#8, 0#8, 5#8, 0#8] race ∧ (∀ e ∈ race.dir.aliasMap, e.1 ≠ 60001) ∧
    (∃ e ∈ (aliased 1).dir.aliasMap, e.1 = 60001) ∧ (aliased 255).dir.aliasMap.length < 256 ∧
    256 ≤ (aliased 256).dir.aliasMap.length ∧ (∀ e ∈ (aliased 256).dir.aliasMap, e.1 ≠ 70000) ∧
    Layout.one 4 [0x61#8, 0xEA#8, 0#8, 0#8] = some 60001 ∧ Asked .c Kind.aliasClear [0x61#8, 0xEA#8, 0#8, 0#8] (aliased 1) := by
  decide +kernel

theorem test_hyp_WaveRequestsTaken :
    Layout.waveStart [32#8, 0#8, 0#8, 0#8, 0#8, 0#8] = some (32, none) ∧
    Layout.waveStart [31#8, 1#8, 0x80#8, 0x96#8, 0x98#8, 0#8] = some (31, some 10000000) ∧
    Asked .c Kind.waveStart [31#8, 1#8, 0x80#8, 0x96#8, 0x98#8, 0#8] race ∧ race.clock.epoch = some 3 ∧ race.now - 3 = 10000000 ∧
    State.reset.clock.epoch = none ∧ (race.dir.waveGun 1).isSome ∧ race.dir.waveGun 31 = none ∧
    Layout.waveSet [1#8, 0#8, 0x80#8, 0x96#8, 0x98#8, 0#8] = some (1, 10000000) ∧
    Layout.waveSet [1#8, 0#8, 0x81#8, 0x96#8, 0x98#8, 0#8] = some (1, 10000001) ∧
    Asked .c Kind.waveSet [1#8, 0#8, 0x80#8, 0x96#8, 0x98#8, 0#8] race ∧
    Layout.waveSet [1#8, 0#8, 1#8, 0x5C#8, 0x26#8, 5#8] = some (1, 86400001) ∧
    Layout.waveSet [1#8, 0#8, 0#8, 0x5C#8, 0x26#8, 5#8] = some (1, 86400000) ∧
    Asked .c Kind.waveSet [1#8, 0#8, 1#8, 0x5C#8, 0x26#8, 5#8] State.reset := by decide +kernel

/-- WAVE SET before the gun: RANGE above 86,400,000 ms, STATE at it. -/
theorem test_wave_set_before_the_gun :
    newest .c (after (exec (.waveSet .c) (asking .c Kind.waveSet [1#8, 0#8, 1#8, 0x5C#8, 0x26#8, 5#8] State.reset)))
      = some (refuseFrame (frame Kind.waveSet []) .range 0) ∧
    newest .c (after (exec (.waveSet .c) (asking .c Kind.waveSet [1#8, 0#8, 0#8, 0x5C#8, 0x26#8, 5#8] State.reset)))
      = some (refuseFrame (frame Kind.waveSet []) .state 0) := by decide +kernel

/-! ### Hypotheses: crossings -/

theorem test_hyp_PointSetTaken :
    Layout.pointSet (pointBytes defaultPoint) = some defaultPoint ∧ Asked .c Kind.pointSet (pointBytes defaultPoint) State.reset ∧
    State.reset.clock.epoch = none ∧ race.clock.epoch.isSome ∧
    Layout.pointSet (pointBytes ⟨2, 1, 2, 2000, 10, 30⟩) = some ⟨2, 1, 2, 2000, 10, 30⟩ ∧ PointOk ⟨2, 1, 2, 2000, 10, 30⟩ = true ∧
    PointOk ⟨2, 49999, 50000, 30000, 240, 600⟩ = true ∧ PointOk ⟨2, 50000, 50000, 30000, 240, 600⟩ = false := by decide +kernel

/-- Reads in the queues named, and the queue next in turn. -/
def queued (a b r : Bool) (turn : Turn) : State :=
  let x : Read := ⟨5, 9000000, .exact⟩
  let s := withQueue .b (if b then [x] else []) (withQueue .a (if a then [x] else []) race)
  { s with hold := { s.hold with release := if r then [⟨5, .a, 9000000, .exact, .suspect 5, 1⟩] else [] }
           engine := { s.engine with nextTurn := turn } }

theorem test_hyp_ArbiterTakes :
    race.held = false ∧ race.clock.epoch = some 3 ∧ race.engine.crossings.length < 2048 ∧
    2048 ≤ (List.replicate 2048 (crossingOf 5 1 0)).length ∧
    (queued false false false .feedA).feeds.a.queue = [] ∧
    (queued true true true .feedA).feeds.a.queue = ⟨5, 9000000, .exact⟩ :: [] ∧
    (queued true false false .feedB).feeds.b.queue = [] ∧ (queued true false false .feedB).hold.release = [] ∧
    (queued false true true .feedB).feeds.b.queue = ⟨5, 9000000, .exact⟩ :: [] ∧
    (queued true false true .feedB).hold.release = ⟨5, .a, 9000000, .exact, .suspect 5, 1⟩ :: [] := by decide +kernel

/-- What the queue next in turn, or the next along the cycle, gives (R42). -/
theorem test_turns :
    (after (exec .readJudgement (queued true true true .feedA))).engine.nextTurn = .feedB ∧
    (after (exec .readJudgement (queued true false true .feedB))).engine.nextTurn = .feedA ∧
    (after (exec .readJudgement (queued true false false .release))).engine.nextTurn = .feedB := by decide +kernel

theorem test_hyp_ReadIsResolved :
    ((aliased 1).dir.writeAlias 70000 0).2.aliasOf 70000 = some 0 ∧ race.dir.aliasOf 70000 = none ∧
    (aliased 1).dir.aliasOf 60001 = some 5 ∧ (readChecked 8 race).1.state = .empty ∧
    (readChecked 5 upset).1.suspect = true ∧ (readChecked 5 upset).1.state ≠ .empty ∧ (readChecked 7 race).1.state = .withdrawn ∧
    (readChecked 7 race).1.suspect = false ∧ (readChecked 5 race).1.state = .entered ∧ (readChecked 5 race).1.suspect = false ∧
    race.dir.waveGun (readChecked 5 race).1.wave = some 1000 ∧ race.dir.waveGun (readChecked 6 race).1.wave = none := by
  decide +kernel

/-- The future tolerance and the gun at their bounds (R46, R47). -/
theorem test_read_times :
    (after (exec .readJudgement (withQueue .a [⟨5, 10002001, .exact⟩] race))).feeds.a.counts.future = 1 ∧
    (after (exec .readJudgement (withQueue .a [⟨5, 10002000, .exact⟩] race))).feeds.a.counts.opened = 1 ∧
    (after (exec .readJudgement (withQueue .a [⟨5, 999, .exact⟩] race))).feeds.a.counts.beforeGun = 1 ∧
    (after (exec .readJudgement (withQueue .a [⟨5, 1000, .exact⟩] race))).feeds.a.counts.opened = 1 := by decide +kernel

theorem test_hyp_ReadIsPlaced :
    (withCrossing (crossingOf 5 1 0) race).engine.find? 5 = some (crossingOf 5 1 0) ∧ race.engine.find? 5 = none ∧
    (let rd := { runner 1 with made := 1, last := some 6600001 }
     1 ≤ rd.made ∧ rd.last = some 6600001 ∧ (9000000 : Nat) < 6600001 + race.engine.point.rearmGap * 60000 ∧
       ¬ (9000001 : Nat) < 6600001 + race.engine.point.rearmGap * 60000) ∧
    race.engine.point.passes ≤ ({ runner 1 with made := 2 }).made ∧ (runner 1).made < race.engine.point.passes ∧
    race.engine.crossings.length + 1 ≠ 2048 ∧ (List.replicate 2047 (crossingOf 9 1 0)).length + 1 = 2048 := by decide +kernel

theorem test_hyp_CrossingIsPosted :
    let s := withCrossing (crossingOf 5 1 10000003) race
    s.held = false ∧ s.clock.epoch = some 3 ∧ s.engine.find? 5 = some (crossingOf 5 1 10000003) ∧
    (crossingOf 5 1 10000003).deadline ≤ s.now := by decide +kernel

/-- The flags byte: bit 0 featured, bit 6 amended (R197). -/
theorem test_flags_byte : (⟨true, false, false, false, false, false⟩ : SplitFlags).byte true = 65 ∧
    (⟨false, true, true, true, true, true⟩ : SplitFlags).byte false = 62 := by decide

/-! ### Hypotheses: the hold list -/

theorem test_hyp_HoldIsTaken :
    (∃ e ∈ (withHolds [holdOf 5 .unknownChip false] race).hold.list, e.chip = 5) ∧ race.hold.list = [] ∧
    (¬ ∃ e ∈ (withHolds [holdOf 5 .unknownChip false] race).hold.list, e.chip = 6) ∧
    (List.replicate 63 (holdOf 5 .unknownChip false)).length < 64 ∧ 64 ≤ (List.replicate 64 (holdOf 5 .unknownChip false)).length := by
  decide +kernel

/-- HOLD RESOLVE of chip 70,000: ADMIT to bib 5, and REJECT. -/
def admitBytes : List Byte := [0x70#8, 0x11#8, 1#8, 0#8, 0#8, 0#8, 5#8, 0#8]
def rejectBytes : List Byte := [0x70#8, 0x11#8, 1#8, 0#8, 1#8, 0#8, 0#8, 0#8]

theorem test_hyp_HoldResolveTaken :
    Layout.holdResolve admitBytes = some ⟨70000, 0, 5⟩ ∧ Layout.holdResolve rejectBytes = some ⟨70000, 1, 0⟩ ∧
    Layout.holdResolve [0x70#8, 0x11#8, 1#8, 0#8, 2#8, 0#8, 5#8, 0#8] = some ⟨70000, 2, 5⟩ ∧
    Asked .c Kind.holdResolve admitBytes (withHolds [holdOf 70000 .unknownChip false] race) ∧
    (race.dir.record 5).fields.state = .entered ∧ (race.dir.record 7).fields.state ≠ .entered ∧
    (withHolds [holdOf 70000 .unknownChip true] race).hold.find? 70000 = some (holdOf 70000 .unknownChip true) ∧
    (withHolds [holdOf 70000 .unknownChip false] race).hold.find? 70000 = some (holdOf 70000 .unknownChip false) ∧
    race.hold.find? 70000 = none ∧ 256 ≤ (aliased 256).dir.aliasMap.length ∧ ¬ (∃ x ∈ (aliased 256).dir.aliasMap, x.1 = 70000) := by
  decide +kernel

theorem test_resolutions :
    (after (exec (.holdResolveAdmit .c) (asking .c Kind.holdResolve admitBytes (withHolds [holdOf 70000 .unknownChip false] race)))).dir.aliasMap
      = [(70000, 5)] ∧
    (after (exec (.holdResolveReject .c) (asking .c Kind.holdResolve rejectBytes (withHolds [holdOf 70000 .unknownChip false] race)))).hold.list
      = [] := by decide +kernel

theorem test_hyp_HoldsLeaveTheList :
    Layout.one 2 [0#8, 0#8] = some 0 ∧ Layout.one 2 [61#8, 0#8] = some 61 ∧ Layout.one 2 [60#8, 0#8] = some 60 ∧
    Asked .c Kind.holdTimeoutSet [60#8, 0#8] race ∧
    (let s := withHolds [holdOf 5 .unknownChip false] race
     s.held = false ∧ s.hold.find? 5 = some (holdOf 5 .unknownChip false) ∧ (holdOf 5 .unknownChip false).releasing = false ∧
       (holdOf 5 .unknownChip false).enteredAt + s.hold.timeout * 60000 ≤ s.now) ∧
    (let s := timed 10000002 (some 3) (withHolds [holdOf 5 .unknownChip false] race)
     s.now < (holdOf 5 .unknownChip false).enteredAt + s.hold.timeout * 60000) ∧
    (let s := withHolds [holdOf 5 .unknownChip false, holdOf 6 .unknownChip true, holdOf 7 .unknownChip true] race
     s.hold.list = [holdOf 5 .unknownChip false] ++ holdOf 6 .unknownChip true :: [holdOf 7 .unknownChip true] ∧
       s.hold.release.length < 64) ∧
    64 ≤ (List.replicate 64 (holdOf 5 .unknownChip false).released).length := by decide +kernel

/-! ### Hypotheses: the split log -/

theorem test_hyp_LogAppends :
    posted.log.entries.length < 8192 ∧ posted.log.Ok ∧
    (List.replicate 8192 0).length = 8192 := by decide +kernel

theorem test_hyp_ListsAreRead :
    Asked .c Kind.splitsRead [0#8, 0#8, 0#8, 0#8] posted ∧ posted.log.Ok ∧ Layout.one 4 [0#8, 0#8, 0#8, 0#8] = some 0 ∧
    posted.log.newest + 1 < 5 ∧ Layout.one 4 [4#8, 0#8, 0#8, 0#8] = some 4 ∧
    (let l : SplitLog := { posted.log with entries := posted.log.entries.drop 1 }
     l.Ok ∧ (1 : Nat) < l.oldest ∧ l.oldest ≤ 2 ∧ 4 ≤ l.newest + 1) ∧
    Asked .c Kind.holdsRead [63#8] race ∧ Layout.one 1 [64#8] = some 64 ∧ race.hold.list.length < 1 ∧
    Layout.one 1 [0#8] = some 0 ∧ (0 : Nat) ≤ race.hold.list.length := by decide +kernel

/-! ### Hypotheses: the board -/

/-- A LIVE board with one posting in each lane. -/
def boarded : State :=
  { race with board := { race.board with
      lead := [postingOf 1 5 1 1 false], feat := [postingOf 2 6 1 9 true], flow := [postingOf 3 8 1 9 false]
      lastOffer := some 9940003 } }

theorem test_hyp_OffersAndQuiet :
    (postingOf 1 5 1 3 false).place ≤ boarded.board.settings.leadDepth ∧ boarded.board.settings.leadDepth < (postingOf 1 5 1 4 true).place ∧
    (postingOf 1 5 1 4 true).flags.featured = true ∧ (postingOf 1 5 1 4 false).flags.featured = false ∧
    boarded.board.lead.length < 16 ∧ (List.replicate 16 (postingOf 1 5 1 3 false)).length = 16 ∧
    boarded.held = false ∧ boarded.board.lastOffer = some 9940003 ∧
    9940003 + boarded.board.settings.quietInterval * 1000 ≤ boarded.now ∧
    (timed 10000002 (some 3) boarded).now < 9940003 + boarded.board.settings.quietInterval * 1000 := by decide +kernel

theorem test_hyp_PagesAreComposed :
    Asked .d Kind.page [] boarded ∧ boarded.board.pattern = 0 ∧ boarded.board.lastOffer.isSome ∧ race.board.lastOffer = none ∧
    { boarded.board with pattern := 7 }.pattern ≠ 0 ∧ boarded.board.rotation[boarded.board.slot]? = some ⟨.leaders, 10⟩ ∧
    boarded.board.lead ≠ [] ∧ boarded.board.feat ≠ [] ∧ boarded.board.flow ≠ [] ∧
    { boarded.board with slot := 1 }.rotation[1]? = some ⟨.featured, 6⟩ ∧ { boarded.board with slot := 2 }.rotation[2]? = some ⟨.flow, 20⟩ ∧
    { boarded.board with slot := 3 }.rotation[3]? = some ⟨.clock, 4⟩ ∧
    race.board.eligible race.board.slot = false ∧ race.board.advance.eligible race.board.advance.slot = true ∧
    race.board.advance.slot = 3 ∧
    (let b : Board := { race.board with rotation := [⟨.flow, 1⟩] }
     b.eligible b.slot = false ∧ b.advance.eligible b.advance.slot = false) ∧
    State.reset.clock.epoch = none ∧ race.clock.epoch = some 3 ∧ race.now - 3 < 4294967296 := by decide +kernel

theorem test_clock_page :
    clockPage false race = [3#8, 0#8, 0x80#8, 0x96#8, 0x98#8, 0#8, 3#8, 3#8] := by decide +kernel

/-- The last page of a slot advances the rotation (R116). -/
theorem test_rotation_advances :
    ((after (exec (.page .d) (asking .d Kind.page [] { boarded with board := { boarded.board with pageCount := 9 } }))).board.slot,
      (after (exec (.page .d) (asking .d Kind.page [] { boarded with board := { boarded.board with pageCount := 8 } }))).board.slot)
      = (1, 0) := by decide +kernel

theorem test_hyp_BoardRequestsTaken :
    Layout.boardSet (boardBytes defaultBoard) = some defaultBoard ∧ Asked .c Kind.boardSet (boardBytes defaultBoard) race ∧
    BoardOk ⟨4, 1, 1, 1, 1, 10⟩ = true ∧ BoardOk ⟨12, 20, 20, 20, 10, 600⟩ = true ∧ BoardOk ⟨3, 1, 1, 1, 1, 10⟩ = false ∧
    Layout.rotationSet (rotationBytes defaultRotation) = some [(0, 10), (1, 6), (2, 20), (3, 4)] ∧
    Layout.rotationSet [0#8, 0#8] = some [] ∧ Layout.rotationSet [1#8, 0#8, 4#8, 1#8] = some [(4, 1)] ∧
    Layout.rotationSet [1#8, 0#8, 3#8, 0#8] = some [(3, 0)] ∧
    Layout.one 1 [7#8] = some 7 ∧ Layout.one 1 [8#8] = some 8 ∧ Asked .c Kind.patternSet [8#8] race := by decide +kernel

/-! ### Hypotheses: the race clock -/

theorem test_hyp_GunSetTaken :
    Layout.gunSet [1#8, 0xC0#8, 0x27#8, 9#8, 0#8] = some (some 600000) ∧ Layout.gunSet [1#8, 0xC1#8, 0x27#8, 9#8, 0#8] = some (some 600001) ∧
    Layout.gunSet [0#8, 0#8, 0#8, 0#8, 0#8] = some none ∧ Asked .c Kind.gunSet [0#8, 0#8, 0#8, 0#8, 0#8] race ∧
    race.clock.epoch.isSome ∧ 600000 ≤ (timed 600000 none State.reset).now ∧ (timed 599999 none State.reset).now < 600000 ∧
    Asked .c Kind.gunSet [1#8, 0xC0#8, 0x27#8, 9#8, 0#8] (timed 600000 none State.reset) := by decide +kernel

/-- A SYNC reference `back` ms ago, in a state with a count or misses. -/
def synced (x : SourceState) (count misses back : Nat) : State :=
  clocked (fun c => { c with sync := ⟨x, count, misses, some (race.now - back), race.now⟩, current := .sync }) race

theorem test_hyp_MarksAreTaken :
    (race.clock.ref .sync).reference = none ∧ ((synced .qualified 0 0 995).clock.ref .sync).reference = some 9999008 ∧
    (synced .qualified 0 0 995).now - 9999008 = 995 ∧ goodPeriod .sync 995 = true ∧ goodPeriod .sync 1005 = true ∧
    goodPeriod .sync 994 = false ∧ goodPeriod .sync 1006 = false ∧ goodPeriod .beacon 950 = true ∧ goodPeriod .beacon 1050 = true ∧
    goodPeriod .beacon 949 = false ∧ goodPeriod .beacon 1051 = false ∧ Asked .c Kind.timeBeacon [] race ∧
    (race.clock.ref .sync).watch ≤ race.now ∧ (synced .qualified 0 0 1000).clock.current = Reference.sync.source ∧
    ((synced .qualified 0 0 1000).clock.ref .sync).state = .qualified ∧ race.clock.current ≠ Reference.sync.source := by
  decide +kernel

/-- A mark 3 ms after a whole second leads by 3; one at 501 ms lags by 499 (R136). -/
theorem test_leads : leadOf 10000003 = 3 ∧ leadOf 10000500 = 500 ∧ leadOf 10000501 = -499 := by decide

theorem test_hyp_PeriodsMoveTheState :
    ((synced .starting 14 0 0).clock.ref .sync).count + 1 < 16 ∧ 16 ≤ ((synced .starting 15 0 0).clock.ref .sync).count + 1 ∧
    ((synced .starting 15 0 0).clock.ref .sync).state = .starting ∧ ((synced .qualified 0 1 0).clock.ref .sync).misses + 1 < 3 ∧
    3 ≤ ((synced .qualified 0 2 0).clock.ref .sync).misses + 1 ∧ ((synced .qualified 0 2 0).clock.ref .sync).state = .qualified ∧
    ((synced .failed 0 0 0).clock.ref .sync).state = .failed := by decide +kernel

theorem test_hyp_SourceFailureTaken :
    (synced .failed 0 0 0).clock.current = .sync ∧ (synced .failed 0 0 0).clock.failSafe = true ∧ race.clock.current ≠ .sync ∧
    (clocked (fun c => { c with failSafe := false }) (synced .failed 0 0 0)).clock.failSafe = false ∧
    (clocked (fun c => { c with fallbackDue := true }) (synced .failed 0 0 0)).clock.current = .sync ∧
    (clocked (fun c => { c with fallbackDue := true }) (synced .failed 0 0 0)).clock.fallbackDue = true ∧
    (synced .failed 0 0 0).held = false := by decide +kernel

/-- The fallback of R144: turned on while SYNC is FAILED it is owed, and the next step on an empty queue makes it, at a whole
second and with a request at hand. -/
theorem test_deferred_fallback :
    let s := clocked (fun c => { c with failSafe := false, courseTime := 10001000, requested := some .rc }) (synced .failed 0 0 0)
    let t := after (exec (.clockSetup .c) (asking .c Kind.clockSetup [1#8, 0#8] s))
    t.clock.fallbackDue = true ∧ (after (exec .switchCompletion t)).clock.current = .sync ∧
      ((after (step t)).clock.current, (after (step t)).clock.clockFail, (after (step t)).clock.requested) = (.rc, true, none) := by
  decide +kernel

theorem test_hyp_XoIsJudged :
    (xoCounting .starting 65535 false).clock.xo.state = .starting ∧ 65535 ≤ (xoCounting .starting 65535 false).clock.xo.count ∧
    (xoCounting .qualified 0 false).clock.xo.state = .qualified ∧ (xoCounting .failed 0 false).clock.xo.windowGap = false ∧
    (xoCounting .failed 0 true).clock.xo.windowGap = true ∧ race.held = false ∧
    windowGood 7946240 = true ∧ windowGood 7946239 = false ∧ windowGood 8437760 = true ∧ windowGood 8437761 = false := by
  decide +kernel

theorem test_hyp_SwitchCompletes :
    (requesting none 10000003).now % 1000 ≠ 0 ∧ (requesting (some .xo) 10001000).now % 1000 = 0 ∧
    (requesting (some .xo) 10001000).clock.secondTaken ≠ (requesting (some .xo) 10001000).now ∧
    (requesting (some .xo) 10001000).clock.fallbackDue = false ∧
    (requesting (some .xo) 10001000).clock.requested = some .xo ∧ (requesting (some .xo) 10001000).clock.sourceState .xo = .qualified ∧
    (requesting (some .sync) 10001000).clock.requested = some .sync ∧
    (requesting (some .sync) 10001000).clock.sourceState .sync ≠ .qualified := by decide +kernel

theorem test_hyp_ClockSelectTaken :
    Layout.one 1 [4#8] = some 4 ∧ Layout.one 1 [3#8] = some 3 ∧ Asked .c Kind.clockSelect [3#8] (requesting none 10000003) ∧
    (requesting none 10000003).clock.current = .rc ∧ (requesting none 10000003).clock.requested = none ∧
    (requesting (some .sync) 10000003).clock.requested = some .sync ∧ (requesting none 10000003).clock.sourceState .xo = .qualified ∧
    (requesting none 10000003).clock.sourceState .sync ≠ .qualified ∧
    (clocked (fun c => { c with lock := true }) race).clock.lock = true ∧ race.clock.clockFail = false := by decide +kernel

theorem test_hyp_ClockRequestsTaken :
    Asked .c Kind.clockLock [] race ∧ Asked .c Kind.clockFailClear [] race ∧ Asked .c Kind.clockSetup [1#8, 2#8] race ∧
    Asked .c Kind.clockSetup [2#8, 0#8] race ∧ Asked .c Kind.clockSetup [0#8, 3#8] race ∧ race.clock.lock = false ∧
    (clocked (fun c => { c with lock := true }) race).clock.lock = true := by decide +kernel

theorem test_hyp_LeadSlews :
    race.held = false ∧ 0 < (leading 1 999 race).clock.lead ∧ (leading 1 999 race).clock.oscMs = 999 ∧ race.now ≤ maxCourseTime ∧
    (leading (-1) 1000 race).clock.lead < 0 ∧ 1000 ≤ (leading (-1) 1000 race).clock.oscMs ∧ race.now < maxCourseTime ∧
    race.now % 1000 ≠ 0 ∧
    (leading (-1) 1000 (requesting none 10001000)).clock.requested = none ∧
    (leading 1 999 (timed maxCourseTime none race)).now ≤ maxCourseTime ∧
    (leading (-1) 1000 (timed (maxCourseTime - 1) none race)).now < maxCourseTime := by decide +kernel

/-- A second of 999 ms, and one of 1,001 ms, at their ends: a millisecond passes and the slew follows. -/
theorem test_slewed_seconds :
    let s (lead : Int) (oscMs : Nat) : State := leading lead oscMs (clocked (fun c => { c with xo := ⟨.qualified, 0, false⟩ }) State.reset)
    let t (x : State) : Timebase := (after (step (after (step x)))).clock
    ((t (s 5 998)).courseTime, (t (s 5 998)).lead, (t (s 5 998)).oscMs) = (1, 4, 0) ∧
    ((t (s (-5) 999)).courseTime, (t (s (-5) 999)).lead, (t (s (-5) 999)).oscMs) = (2, -4, 0) := by decide +kernel

/-! ### Hypotheses: corrections -/

theorem test_hyp_WithdrawAndReinstateTaken :
    Layout.one 2 [5#8, 0#8] = some 5 ∧ Asked .c Kind.withdraw [5#8, 0#8] race ∧ (race.dir.record 5).fields.state = .entered ∧
    (race.dir.record 7).fields.state = .withdrawn ∧ race.log.newest < 4294847295 ∧
    4294847295 ≤ { race.log with newest := 4294847295 }.newest ∧ Layout.one 2 [7#8, 0#8] = some 7 ∧
    Asked .c Kind.reinstate [7#8, 0#8] race ∧ Layout.one 2 [0#8, 0#8] = some 0 := by decide +kernel

/-- AMEND of bib 5, pass 1, to 3,000. -/
def amendBytes (pass : Byte) : List Byte := [5#8, 0#8, pass, 0#8, 0xB8#8, 0x0B#8, 0#8, 0#8]

theorem test_hyp_AmendTaken :
    Layout.amend (amendBytes 1#8) = some (5, 1, 3000) ∧ Asked .c Kind.amend (amendBytes 1#8) posted ∧
    Layout.amend (amendBytes 0#8) = some (5, 0, 3000) ∧ Layout.amend (amendBytes 2#8) = some (5, 2, 3000) ∧
    posted.clock.epoch = some 3 ∧ State.reset.clock.epoch = none ∧ 1 ≤ State.reset.engine.point.passes ∧
    (posted.dir.waveGun (posted.dir.record 5).fields.wave).getD 0 ≤ 3000 ∧ (3000 : Nat) ≤ posted.now - 3 ∧
    posted.engine.find? 5 = none ∧ (withCrossing (crossingOf 5 1 0) posted).engine.find? 5 = some (crossingOf 5 1 0) ∧
    (posted.dir.record 5).fields.made < 2 ∧ 1 ≤ (posted.dir.record 5).fields.made ∧
    posted.log.entries = [{ entryOf 1 with bib := 9 }] ++ entryOf 2 :: [{ entryOf 3 with bib := 9 }] ∧
    posted.log.newest < 4294847295 := by decide +kernel

theorem test_amend_appends :
    (after (exec (.amend .c) (asking .c Kind.amend (amendBytes 1#8) posted))).log.entries.getLast? =
      some ⟨4, .amended, 5, some ⟨1, 3000, 2000, 2000, 94⟩, some 3, ⟨false, false, true, false, true, true⟩⟩ := by decide +kernel

/-- CROSSING ENTER of a bib at 3,000. -/
def enterBytes (bib : Byte) : List Byte := [bib, 0#8, 0#8, 0#8, 0xB8#8, 0x0B#8, 0#8, 0#8]

theorem test_hyp_CrossingEnterTaken :
    Layout.crossingEnter (enterBytes 5#8) = some (5, 3000) ∧ Asked .c Kind.crossingEnter (enterBytes 5#8) race ∧
    Layout.crossingEnter (enterBytes 0#8) = some (0, 3000) ∧ State.reset.clock.epoch = none ∧ race.clock.epoch = some 3 ∧
    race.dir.waveGun (race.dir.record 5).fields.wave = some 1000 ∧ (race.dir.record 5).fields.last = none ∧
    (3000 : Nat) ≤ race.now - 3 ∧ race.engine.find? 5 = none ∧ (race.dir.record 5).fields.made < race.engine.point.passes ∧
    (race.dir.waveGun (race.dir.record 6).fields.wave).isSome = false := by decide +kernel

theorem test_entered_crossing :
    newest .c (after (exec (.crossingEnter .c) (asking .c Kind.crossingEnter (enterBytes 5#8) race))) =
      some ⟨Kind.ack, 7#16, [Kind.crossingEnter, 1#8, 1#8, 0#8, 1#8, 0#8, 0#8, 0#8, 0xD0#8, 7#8, 0#8, 0#8, 0xD0#8, 7#8, 0#8, 0#8,
        94#8, 0#8, 0#8, 0#8, 0x2C#8, 0#8]⟩ := by decide +kernel

/-- An upset lowers crossings made after pass 1 is entered at 9,990,000: the pass is entered and offered again, and AMEND takes both
postings (log entry 30). -/
theorem test_pass_offered_again :
    let enter (s : State) : State := after (exec (.crossingEnter .c)
      (asking .c Kind.crossingEnter [5#8, 0#8, 0#8, 0#8, 0x70#8, 0x6F#8, 0x98#8, 0#8] s))
    let upset (s : State) : State := after (exec (.recordUpset 5 { (s.dir.record 5).fields with made := 0, last := none }) s)
    let amend (s : State) : State := after (exec (.amend .c) (asking .c Kind.amend (amendBytes 1#8) s))
    let rows (s : State) := (s.board.lead ++ s.board.feat ++ s.board.flow).map (fun x => (x.bib, x.pass, x.amended))
    rows (enter (upset (enter race))) = [(5, 1, false), (5, 1, false)] ∧
    rows (amend (enter (upset (enter race)))) = [(5, 1, true), (5, 1, true)] := by decide +kernel

/-! ### Hypotheses: faults and status -/

/-- SETUP is held and TIMEBASE pending. -/
def faulty : State := raiseFault .timebase 3 State.reset

theorem test_hyp_FaultsAreRaised :
    (State.cold .baud115200 SetupBlock.unwritten).faults.record = none ∧ (faulty.faults.record.map FaultRecord.kind) = some .setup ∧
    (faulty.faults.set.get .timebase).pending = true ∧ (faulty.faults.set.get .feed).pending = false ∧
    (faulty.port .c).notices < 15 ∧
    15 ≤ (State.reset.setPort .c { State.reset.port .c with tx := List.replicate 15 setupNotice }).ports.c.notices := by
  decide +kernel

theorem test_hyp_FaultClearTaken :
    Layout.faultClear [0#8, 0#8, 0#8, 0#8] = some ⟨0, 0, 0⟩ ∧ Layout.faultClear [2#8, 0#8, 0#8, 0#8] = some ⟨2, 0, 0⟩ ∧
    Layout.faultClear [0#8, 5#8, 0#8, 0#8] = some ⟨0, 5, 0⟩ ∧ Layout.faultClear [1#8, 0#8, 0#8, 0#8] = some ⟨1, 0, 0⟩ ∧
    Layout.faultClear [1#8, 0#8, 9#8, 0#8] = some ⟨1, 0, 9⟩ ∧ Asked .c Kind.faultClear [0#8, 0#8, 0#8, 0#8] faulty ∧
    FaultKind.ofCode? 0 = some .setup ∧ faulty.faults.record = some ⟨.setup, 0, 0⟩ ∧
    (∀ j ∈ faultKinds, (State.reset.faults.set.get j).pending = false) ∧
    faultKinds = [.setup] ++ .timebase :: [.crossingFull, .holdFull, .feed] ∧ (faulty.faults.set.get .setup).pending = false ∧
    (faulty.faults.set.get .timebase).pending = true ∧ (faulty.faults.set.get .timebase).first = some (0, 3) ∧
    faulty.faults.integrity = none ∧
    { faulty with faults := { faulty.faults with integrity := some ⟨9, 0, 0⟩ } }.faults.integrity = some ⟨9, 0, 0⟩ ∧
    Asked .c Kind.integritySet [0#8] race ∧ Asked .c Kind.integritySet [2#8] race := by decide +kernel

theorem test_hyp_FaultsAndStatusRead :
    Asked .c Kind.faultRead [] faulty ∧ Asked .c Kind.statusRead [] race ∧
    (State.cold .baud115200 SetupBlock.unwritten).faults.record = none ∧ faulty.faults.record = some ⟨.setup, 0, 0⟩ ∧
    faulty.faults.integrity = none := by decide +kernel

/-! ### Hypotheses: setup, restart and reset -/

theorem test_hyp_SetupIsStored :
    Asked .c Kind.setupStore [] race ∧
    (let s := after (exec (.setupStore .c) (asking .c Kind.setupStore [] race))
     s.held = false ∧ s.setup.writing = some ⟨workingSettings race, race.now⟩ ∧ (s.port .c).inWork = some (frame Kind.setupStore [])) := by
  decide +kernel

theorem test_hyp_RestartIsTaken :
    State.reset.held = false ∧ (State.reset.port .c).tx = setupNotice :: [] ∧ Asked .c Kind.restart [] race ∧
    race.restartDue = false ∧ { race with restartDue := true }.restartDue = true := by decide +kernel

/-- The pending byte: bit n for kind n (R197). -/
theorem test_pending_byte : (faulty.faults.set.pendingByte, (raiseFault .feed 0 faulty).faults.set.pendingByte) = (2, 18) := by
  decide +kernel

theorem test_hyp_WarmRestartActs :
    race.hold.release = [] ∧
    (let r : ReleasedRead := ⟨5, .a, 9000000, .exact, .suspect 5, 1⟩
     (∃ e ∈ [] ++ (withHolds [holdOf 5 .unknownChip false] race).hold.list, e.chip = r.chip) ∧
     (∀ e ∈ [] ++ (withHolds [holdOf 6 .unknownChip false] race).hold.list, e.chip ≠ r.chip) ∧
     ([holdOf 6 .unknownChip true] ++ (List.replicate 62 (holdOf 7 .unknownChip false))).length < 64 ∧
     64 ≤ ([holdOf 6 .unknownChip true] ++ (List.replicate 63 (holdOf 7 .unknownChip false))).length) := by decide +kernel

theorem test_hyp_ColdResetActs :
    race.held = false ∧ (State.cold .baud115200 SetupBlock.unwritten).held = true ∧
    (State.cold .baud115200 ⟨defaultSettings, some defaultSettings⟩).setup.block.codedFor
      = some (State.cold .baud115200 ⟨defaultSettings, some defaultSettings⟩).setup.block.items ∧
    (State.cold .baud115200 SetupBlock.unwritten).setup.block.codedFor
      ≠ some (State.cold .baud115200 SetupBlock.unwritten).setup.block.items := by decide +kernel

/-! ### Hypotheses: layouts -/

theorem test_hyp_FramesAreRecognised :
    (frame Kind.time []).payload.length ≤ 1017 ∧ (List.replicate 1017 0#8).length ≤ 1017 ∧ (5 : Nat) < (frame Kind.time []).wire.length ∧
    (0#16 : BitVec 16) ≠ crc (le 2 (frame Kind.time []).content.length ++ (frame Kind.time []).content) := by decide +kernel

theorem test_hyp_RequestLayoutsReadBack :
    (7 : Nat) < 8 ∧ (∀ r ∈ [(4294967295, 4294967295)], r.1 < 4294967296 ∧ r.2 < 4294967296 ∧ (false = true → r.2 = 0)) ∧
    (∀ r ∈ [(4294967295, 0)], r.1 < 4294967296 ∧ r.2 < 4294967296 ∧ (true = true → r.2 = 0)) ∧
    (∀ r ∈ [loadOf 65535, { loadOf 65535 with start := some 4294967295 }], r.bib < 65536 ∧ r.wave < 256 ∧ r.division < 256 ∧
      r.featured < 256 ∧ r.nameTag < 65536 ∧ ∀ t ∈ r.start, t < 4294967296) ∧
    (∀ g ∈ (none : Option Nat), g < 4294967296) ∧ (∀ g ∈ some 4294967295, g < 4294967296) ∧
    (let x : PointSettings := ⟨255, 65535, 65535, 4294967295, 65535, 65535⟩
     x.passes < 256 ∧ x.distance1 < 65536 ∧ x.distance2 < 65536 ∧ x.settleWindow < 4294967296 ∧ x.rearmGap < 65536 ∧
       x.lateLimit < 65536) ∧
    (let x : Layout.Resolve := ⟨4294967295, 1, 0⟩
     x.chip < 4294967296 ∧ x.resolution < 256 ∧ x.bib < 65536 ∧ (x.resolution = 1 → x.bib = 0)) ∧
    (let x : BoardSettings := ⟨255, 255, 255, 255, 255, 65535⟩
     x.rows < 256 ∧ x.dwellLead < 256 ∧ x.dwellFeat < 256 ∧ x.dwellFlow < 256 ∧ x.leadDepth < 256 ∧ x.quietInterval < 65536) ∧
    (∀ e ∈ [(255, 255)], e.1 < 256 ∧ e.2 < 256) ∧
    (let x : Layout.Clear := ⟨0, 255, 0⟩
     x.cls < 256 ∧ x.kind < 256 ∧ x.bib < 65536 ∧ (x.cls = 0 → x.bib = 0) ∧ (x.cls = 1 → x.kind = 0)) ∧
    (let x : Layout.Clear := ⟨1, 0, 65535⟩
     x.cls < 256 ∧ x.kind < 256 ∧ x.bib < 65536 ∧ (x.cls = 0 → x.bib = 0) ∧ (x.cls = 1 → x.kind = 0)) := by decide

/-- Two reads of which the second of a clockless report has a time; load records with presence 2, and absent with a time. -/
theorem test_hyp_UnfitContentIsRejected :
    ([1#8] : List Byte) ≠ [] ∧ ([] : List Byte).length ≠ 2 + 8 * u8 0 [] ∧ (16#8 : Byte) ≠ 0#8 ∧ 16 ≤ (16#8 : Byte).toNat ∧
    leNat [1#8] ≠ 0 ∧
    (let pl : List Byte := [2#8, 1#8] ++ List.replicate 12 0#8 ++ [1#8, 0#8, 0#8, 0#8]
     1 < u8 0 pl ∧ u8 1 pl % 2 = 1 ∧ u32 (8 * 1 + 6) pl ≠ 0 ∧ pl.length = 2 + 8 * u8 0 pl ∧ Layout.report pl = none) ∧
    (let pl : List Byte := [1#8, 0#8, 5#8, 0#8, 0#8, 0#8, 0#8, 2#8, 0#8, 0#8, 0#8, 0#8, 0#8, 0#8]
     0 < u8 0 pl ∧ u8 (12 * 0 + 7) pl ≠ 0 ∧ u8 (12 * 0 + 7) pl ≠ 1 ∧ Layout.runnerLoad pl = none) ∧
    (let pl : List Byte := [1#8, 0#8, 5#8, 0#8, 0#8, 0#8, 0#8, 0#8, 0#8, 0#8, 1#8, 0#8, 0#8, 0#8]
     0 < u8 0 pl ∧ u8 (12 * 0 + 7) pl = 0 ∧ u32 (12 * 0 + 10) pl ≠ 0 ∧ Layout.runnerLoad pl = none) := by decide

/-! ### Hypotheses: what every step keeps. `race` and the states of a step from it meet the invariants. -/

theorem test_hyp_PortsStayInBounds : race.PortsOk := by decide +kernel
theorem test_hyp_StoresStayInBounds : race.StoresOk := by decide +kernel
theorem test_hyp_FaultUnitStaysConsistent : race.faults.Ok := by
  refine ⟨by decide +kernel, by decide +kernel, ?_⟩
  rintro r hr
  have e : race.faults.record = some ⟨.setup, 0, 0⟩ := rfl
  rw [e] at hr
  cases hr
  decide +kernel
theorem test_hyp_ClockStaysConsistent : race.ClockOk := by decide +kernel
theorem test_hyp_SettingsStayInRange : race.SettingsOk := by decide +kernel
theorem test_hyp_NothingWaitsBeforeTheGun : State.reset.QuietBeforeGun ∧ State.reset.clock.epoch = none ∧ race.QuietBeforeGun := by
  decide +kernel

theorem test_hyp_TimeNeverGoesBack : ∀ a b rest, { race with pending := [.syncMark] }.pending ≠ .coldReset a b :: rest := by
  intro a b rest h
  cases h

theorem test_hyp_steps : step { race with pending := [.syncMark] } = .next (mark .sync race) := rfl

end Sys2Proof.Tests
end

