-- ==== Sys2Proof/Proofs/RunnersChipsWaves.lean ====
section
/-! SUPPORT. The requests of the runner directory (O14 to O17): what each answers in each case of its checks, and the statements
about them. -/

namespace Sys2Proof.Machine

/-! ### A request of the control role on port C -/

/-- Port C takes every request of the control role that fits its layout to the block's own checks. -/
theorem serve_control {α : Type} {s : State} {f : Frame} {rest : List Frame} {k : Byte} {layout : List Byte → Option α} {a : α}
    (act : α → State → Reply) (h : s.Asks .c f rest) (hf : f.kind = k) (hl : layout f.payload = some a)
    (hk : Kind.taken .control k = true) :
    serve .c (ofKind k) layout act s = .next (answered .c f (s.taken .c rest) (act a (s.taken .c rest))) := by
  subst hf
  exact serve_acts act h (beq_self_eq_true f.kind) hl hk

/-- Marking written out entry by entry. -/
theorem HoldUnit.mark_eq_map {h : HoldUnit} {which : HoldEntry → Bool} {g : HoldEntry → HoldEntry}
    (hg : ∀ e, g e = if which e then { e with releasing := true } else e) :
    h.mark which = { h with list := h.list.map g } := by
  rw [funext hg]
  rfl

/-! ### RUNNER LOAD (R5-R8) -/

/-- A bib in range (01 section 1.1). -/
theorem bibOk_iff {bib : Nat} : bibOk bib = true ↔ 1 ≤ bib ∧ bib ≤ 60000 := by
  simp [bibOk]

/-- A code is neither of on/off exactly when it is above 1. -/
theorem onOff?_isNone_iff {n : Nat} : (onOff? n).isNone = true ↔ 1 < n := by
  match n with
  | 0 | 1 | n + 2 => simp [onOff?]

theorem onOff?_getD (n : Nat) : (onOff? n).getD false = decide (n = 1) := by
  match n with
  | 0 | 1 | n + 2 => simp [onOff?]

/-- The RANGE conditions of R5, written out. -/
theorem loadRange_iff {r : Layout.LoadRecord} : loadRange r = true ↔
    r.bib = 0 ∨ 60000 < r.bib ∨ 31 < r.wave ∨ 7 < r.division ∨ 1 < r.featured ∨ ∃ t, r.start = some t ∧ 86400000 < t := by
  have hbib : (!bibOk r.bib) = true ↔ r.bib = 0 ∨ 60000 < r.bib := by
    rw [Bool.not_eq_true', ← Bool.not_eq_true, bibOk_iff]
    omega
  have hstart : r.start.any (fun t => decide (maxRaceTime < t)) = true ↔ ∃ t, r.start = some t ∧ 86400000 < t := by
    simp only [Option.any_eq_true, decide_eq_true_eq]
    rfl
  simp only [loadRange, Bool.or_eq_true, hbib, hstart, onOff?_isNone_iff, decide_eq_true_eq, or_assoc]

/-- What R7 writes for a load record: `featured` is on exactly for code 1. -/
theorem loadOne_eq : loadOne = fun d r => d.write r.bib { (d.record r.bib).fields with
    state := .entered, wave := r.wave, division := r.division, featured := decide (r.featured = 1),
    nameTag := r.nameTag, start := r.start, suspect := false } := by
  funext d r
  rw [loadOne, loadFields, onOff?_getD]

theorem runnerLoad_out_of_range {rs : List Layout.LoadRecord} (s : State)
    (h : rs.length = 0 ∨ 64 < rs.length ∨ rs.any loadRange) : runnerLoad rs s = .error .range := if_pos h

theorem runnerLoad_withdrawn {rs : List Layout.LoadRecord} (s : State)
    (h : ¬ (rs.length = 0 ∨ 64 < rs.length ∨ rs.any loadRange))
    (hw : ∃ r ∈ rs, (s.dir.record r.bib).fields.state = .withdrawn) : runnerLoad rs s = .error .state := by
  rw [runnerLoad, if_neg h, if_pos (by simpa using hw)]

theorem runnerLoad_accepted {rs : List Layout.LoadRecord} (s : State)
    (h : ¬ (rs.length = 0 ∨ 64 < rs.length ∨ rs.any loadRange))
    (hw : ¬ ∃ r ∈ rs, (s.dir.record r.bib).fields.state = .withdrawn) :
    runnerLoad rs s = .ok ({ s with
      dir := rs.foldl loadOne s.dir, hold := s.hold.mark (suspectOf (rs.map Layout.LoadRecord.bib)) }, le 1 rs.length) := by
  rw [runnerLoad, if_neg h, if_neg (by simpa using hw)]

/-! ### RUNNER READ (R3, R4, R9) -/

theorem runnerRead_out_of_range {bib : Nat} (s : State) (h : bib = 0 ∨ 60000 < bib) :
    runnerRead bib s = .error .range := by
  have hb : ¬ bibOk bib = true := by
    rw [bibOk_iff]
    omega
  exact if_neg hb

theorem runnerRead_in_range {bib : Nat} (s : State) (h : 1 ≤ bib) (h' : bib ≤ 60000) :
    runnerRead bib s = .ok ((readChecked bib s).2, recordBytes bib (readChecked bib s).1) :=
  if_pos (bibOk_iff.mpr ⟨h, h'⟩)

/-- The first integrity failure is captured and announced. -/
theorem integrityFailure_captures {s : State} (bib : Nat) (h : s.faults.integrity = none) :
    integrityFailure bib s = State.notice { s with faults := { s.faults with integrity := some ⟨bib, s.now, 0⟩ } }
      Kind.faultNotice (integrityNotice ⟨bib, s.now, 0⟩) := by
  rw [integrityFailure, h]

/-- A further failure is counted in the record that is held. -/
theorem integrityFailure_counts {s : State} {held : IntegrityRecord} (bib : Nat) (h : s.faults.integrity = some held) :
    integrityFailure bib s = { s with faults := { s.faults with
      integrity := some { held with further := min 255 (held.further + 1) } } } := by
  rw [integrityFailure, h]
  rfl

/-! ### ALIAS SET and ALIAS CLEAR (R14, R15) -/

theorem Directory.not_aliasOf_isSome {d : Directory} {chip : Nat} (h : ∀ e ∈ d.aliasMap, e.1 ≠ chip) :
    ¬ (d.aliasOf chip).isSome = true :=
  Option.not_isSome_iff_eq_none.mpr (aliasOf_none.mpr h)

theorem Directory.writeAlias_replaces {d : Directory} {chip : Nat} (bib : Nat) (h : ∃ e ∈ d.aliasMap, e.1 = chip) :
    d.writeAlias chip bib =
      (.replaced, { d with aliasMap := d.aliasMap.map (fun e => if e.1 = chip then (chip, bib) else e) }) :=
  if_pos (aliasOf_isSome.mpr h)

theorem Directory.writeAlias_takes {d : Directory} {chip : Nat} (bib : Nat) (h : ∀ e ∈ d.aliasMap, e.1 ≠ chip)
    (hl : d.aliasMap.length < aliasCap) :
    d.writeAlias chip bib = (.taken, { d with aliasMap := d.aliasMap ++ [(chip, bib)] }) := by
  rw [writeAlias, if_neg (not_aliasOf_isSome h), if_pos hl]

theorem Directory.writeAlias_full {d : Directory} {chip : Nat} (bib : Nat) (h : ∀ e ∈ d.aliasMap, e.1 ≠ chip)
    (hl : aliasCap ≤ d.aliasMap.length) : d.writeAlias chip bib = (.notWritten, d) := by
  rw [writeAlias, if_neg (not_aliasOf_isSome h), if_neg (Nat.not_lt.mpr hl)]

theorem aliasSet_out_of_range {chip bib : Nat} (s : State) (h : chip ≤ maxBib ∨ maxBib < bib) :
    aliasSet (chip, bib) s = .error .range := if_pos h

theorem aliasSet_full {chip bib : Nat} (s : State) {d : Directory} (h : maxBib < chip) (h' : bib ≤ maxBib)
    (hw : s.dir.writeAlias chip bib = (.notWritten, d)) : aliasSet (chip, bib) s = .error .full := by
  rw [aliasSet, if_neg (by omega), hw]

theorem aliasSet_written {chip bib : Nat} (s : State) {w : AliasWrite} {d : Directory} (h : maxBib < chip) (h' : bib ≤ maxBib)
    (hw : s.dir.writeAlias chip bib = (w, d)) (hn : w ≠ .notWritten) :
    aliasSet (chip, bib) s = .ok ({ s with dir := d }, le 1 w.code ++ le 2 d.aliasFree) := by
  rw [aliasSet, if_neg (by omega), hw]
  cases w with
  | taken | replaced => rfl
  | notWritten => exact absurd rfl hn

theorem aliasClear_out_of_range {chip : Nat} (s : State) (h : chip ≤ maxBib) : aliasClear chip s = .error .range := if_pos h

theorem aliasClear_unknown {chip : Nat} (s : State) (h : maxBib < chip) (hm : ∀ e ∈ s.dir.aliasMap, e.1 ≠ chip) :
    aliasClear chip s = .error .unknown := by
  rw [aliasClear, if_neg (Nat.not_le.mpr h), if_pos (Option.isNone_iff_eq_none.mpr (Directory.aliasOf_none.mpr hm))]

theorem aliasClear_frees {chip : Nat} (s : State) (h : maxBib < chip) (hm : ∃ e ∈ s.dir.aliasMap, e.1 = chip) :
    aliasClear chip s =
      .ok ({ s with dir := { s.dir with aliasMap := s.dir.aliasMap.filter (fun e => e.1 != chip) } },
        le 2 (aliasCap - (s.dir.aliasMap.filter (fun e => e.1 != chip)).length)) := by
  have hs : ¬ (s.dir.aliasOf chip).isNone = true :=
    Option.isNone_iff_eq_none.not.mpr (Option.isSome_iff_ne_none.mp (Directory.aliasOf_isSome.mpr hm))
  rw [aliasClear, if_neg (Nat.not_le.mpr h), if_neg hs]
  rfl

/-- The code that was cleared is not held any more. -/
theorem Directory.aliasOf_filter (d : Directory) (chip : Nat) :
    ({ d with aliasMap := d.aliasMap.filter (fun e => e.1 != chip) } : Directory).aliasOf chip = none :=
  aliasOf_none.mpr fun _ he => bne_iff_ne.mp (List.mem_filter.mp he).2

/-! ### WAVE START and WAVE SET (R18, R19, R128) -/

theorem State.raceNow?_unset {s : State} (h : s.clock.epoch = none) : s.raceNow? = none := by
  rw [raceNow?, h, Option.map_none]

theorem State.raceNow?_running {s : State} {e : Nat} (h : s.clock.epoch = some e) : s.raceNow? = some (s.now - e) := by
  rw [raceNow?, h, Option.map_some]

theorem waveStart_no_wave {wave : Nat} (given : Option Nat) (s : State) (h : 31 < wave) :
    waveStart (wave, given) s = .error .range := if_pos h

theorem waveStart_unset {wave : Nat} (given : Option Nat) (s : State) (h : wave ≤ 31) (he : s.clock.epoch = none) :
    waveStart (wave, given) s = .error .state := by
  rw [waveStart, if_neg (Nat.not_lt.mpr h), State.raceNow?_unset he]

/-- While the race clock is RUNNING the checks of WAVE START are those of the gun time and of the wave's state. -/
theorem waveStart_running {wave : Nat} (given : Option Nat) (s : State) {e : Nat} (h : wave ≤ 31)
    (he : s.clock.epoch = some e) :
    waveStart (wave, given) s =
      let gun := given.getD (s.now - e)
      if s.now - e < gun ∨ maxRaceTime < gun then .error .range
      else if (s.dir.waveGun wave).isSome then .error .state
      else .ok ({ s with dir := s.dir.startWave wave gun, hold := s.hold.mark (waitsForWave wave) }, le 1 wave ++ le 4 gun) := by
  rw [waveStart, if_neg (Nat.not_lt.mpr h), State.raceNow?_running he]

theorem waveSet_out_of_range {wave gun : Nat} (s : State) (h : 31 < wave ∨ maxRaceTime < gun) :
    waveSet (wave, gun) s = .error .range := if_pos h

theorem waveSet_unset {wave gun : Nat} (s : State) (h : wave ≤ 31) (hg : gun ≤ maxRaceTime) (he : s.clock.epoch = none) :
    waveSet (wave, gun) s = .error .state := by
  rw [waveSet, if_neg (by omega), State.raceNow?_unset he]

/-- While the race clock is RUNNING the further checks of WAVE SET are those of race time now and of the wave's state. -/
theorem waveSet_running {wave gun : Nat} (s : State) {e : Nat} (h : wave ≤ 31) (hg : gun ≤ maxRaceTime)
    (he : s.clock.epoch = some e) :
    waveSet (wave, gun) s =
      if s.now - e < gun then .error .range
      else if (s.dir.waveGun wave).isNone then .error .state
      else .ok ({ s with dir := s.dir.startWave wave gun }, le 1 wave ++ le 4 gun) := by
  rw [waveSet, if_neg (by omega), State.raceNow?_running he]

/-! ### The statements -/

/-- Settles O14: the RANGE and STATE conditions are those of `runnerLoad`, and an accepted load writes its records one after
the other with `loadOne`. -/
theorem runnerLoadTaken : Obligations.RunnerLoadTaken := by
  intro s f rest rs ha hk hl u outOfRange withdrawn
  have served : exec (.runnerLoad .c) s = .next (answered .c f u (runnerLoad rs u)) :=
    serve_control runnerLoad ha hk hl (by decide)
  have hrange : outOfRange ↔ rs.length = 0 ∨ 64 < rs.length ∨ rs.any loadRange := by
    simp only [outOfRange, List.any_eq_true, loadRange_iff]
  rw [served, hrange]
  refine ⟨fun h => ?_, fun h hw => ?_, fun h hw => ?_⟩
  · rw [answered_refused (runnerLoad_out_of_range u h)]
  · rw [answered_refused (runnerLoad_withdrawn u h hw)]
  · rw [answered_accepted (runnerLoad_accepted u h hw), loadOne_eq, HoldUnit.mark_eq_map]
    · rfl
    · intro e
      unfold suspectOf
      cases e.reason <;> rfl

/-- Settles O15: the answer is `recordBytes` of what the checked read gives; a failed check goes to the integrity record, empty
or held. -/
theorem runnerReadTaken : Obligations.RunnerReadTaken := by
  intro s f rest bib ha hk hl u r answer failed marked
  have served : exec (.runnerRead .c) s = .next (answered .c f u (runnerRead bib u)) :=
    serve_control runnerRead ha hk hl (by decide)
  have answer_of_read {x v} (h1 : 1 ≤ bib) (h2 : bib ≤ 60000) (hx : readChecked bib u = (x, v)) : answer x v := by
    simp only [answer, served, answered_accepted (runnerRead_in_range u h1 h2), hx, recordBytes]
    cases x.state with
    | empty | entered | withdrawn => rfl
  refine ⟨fun h => ?_, fun h1 h2 h => ?_, fun h1 h2 ⟨hon, hcode⟩ => ?_⟩
  · rw [served, answered_refused (runnerRead_out_of_range u h)]
  · have hpass : s.dir.integrityOn = false ∨ r.codedFor = r.fields := by
      simpa [failed, imp_iff_not_or] using h
    exact answer_of_read h1 h2 (readChecked_passes (s := u) hpass)
  · have hread := readChecked_fails (s := u) hon hcode
    refine ⟨fun hi => ?_, fun held hi => ?_⟩
    · exact answer_of_read h1 h2 (hread.trans (congrArg _ (integrityFailure_captures (s := marked) bib hi)))
    · exact answer_of_read h1 h2 (hread.trans (congrArg _ (integrityFailure_counts (s := marked) bib hi)))

/-- Settles O16: ALIAS SET comes to the three outcomes of `writeAlias`, ALIAS CLEAR to its two checks and the filtered map. -/
theorem aliasRequestsTaken : Obligations.AliasRequestsTaken := by
  intro s f rest ha u map
  refine ⟨fun chip bib hk hl => ?_, fun chip hk hl => ?_⟩
  · have served : exec (.aliasSet .c) s = .next (answered .c f u (aliasSet (chip, bib) u)) :=
      serve_control aliasSet ha hk hl (by decide)
    rw [served]
    refine ⟨fun h => ?_, fun hc hb hm => ?_, fun hc hb hm hf => ?_, fun hc hb hm hf => ?_⟩
    · rw [answered_refused (aliasSet_out_of_range u h)]
    · rw [answered_accepted (aliasSet_written u hc hb (Directory.writeAlias_replaces bib hm) (by decide)),
        Directory.aliasFree, List.length_map]
      rfl
    · rw [answered_accepted (aliasSet_written u hc hb (Directory.writeAlias_takes bib hm hf) (by decide)),
        Directory.aliasFree, List.length_append]
      rfl
    · rw [answered_refused (aliasSet_full u hc hb (Directory.writeAlias_full bib hm hf))]
  · have served : exec (.aliasClear .c) s = .next (answered .c f u (aliasClear chip u)) :=
      serve_control aliasClear ha hk hl (by decide)
    rw [served]
    refine ⟨fun h => ?_, fun h hm => ?_, fun h hm => ⟨?_, s.dir.aliasOf_filter chip⟩⟩
    · rw [answered_refused (aliasClear_out_of_range u h)]
    · rw [answered_refused (aliasClear_unknown u h hm)]
    · rw [answered_accepted (aliasClear_frees u h hm)]
      rfl

/-- Settles O17: the checks of `waveStart` and `waveSet`, in their order. -/
theorem waveRequestsTaken : Obligations.WaveRequestsTaken := by
  refine ⟨fun s f rest wave given ha hk hl => ?_, fun s f rest wave gun ha hk hl => ?_⟩
  · intro u refused
    have served : exec (.waveStart .c) s = .next (answered .c f u (waveStart (wave, given) u)) :=
      serve_control waveStart ha hk hl (by decide)
    have refuses {r} (h : waveStart (wave, given) u = .error r) : refused r := by
      simp only [refused, served, answered_refused h]
    refine ⟨fun h => refuses (waveStart_no_wave given u h), fun h he => refuses (waveStart_unset given u h he),
      fun e h he => ?_⟩
    intro gun
    have running := waveStart_running given u h he
    have in_time (hg : gun ≤ s.now - e) (hb : gun ≤ 86400000) : ¬ (s.now - e < gun ∨ 86400000 < gun) :=
      not_or.mpr ⟨Nat.not_lt.mpr hg, Nat.not_lt.mpr hb⟩
    refine ⟨fun hg => ?_, fun hg hb hw => ?_, fun hg hb hw => ?_⟩
    · exact refuses (running.trans (if_pos hg))
    · exact refuses (running.trans ((if_neg (in_time hg hb)).trans (if_pos hw)))
    · have hwait : ¬ (s.dir.waveGun wave).isSome = true := Option.not_isSome_iff_eq_none.mpr hw
      rw [served, answered_accepted (running.trans ((if_neg (in_time hg hb)).trans (if_neg hwait))), HoldUnit.mark_eq_map]
      · rfl
      · intro e
        unfold waitsForWave
        cases e.reason with
        | wave b w => simp
        | suspect b => rfl
        | unknownChip => rfl
  · intro u refused
    have served : exec (.waveSet .c) s = .next (answered .c f u (waveSet (wave, gun) u)) :=
      serve_control waveSet ha hk hl (by decide)
    have refuses {r} (h : waveSet (wave, gun) u = .error r) : refused r := by
      simp only [refused, served, answered_refused h]
    refine ⟨fun h => refuses (waveSet_out_of_range u h), fun h hg he => refuses (waveSet_unset u h hg he),
      fun e h hg he => ?_⟩
    have running := waveSet_running u h hg he
    refine ⟨fun hn => ?_, fun hn hw => ?_, fun hn hw => ?_⟩
    · exact refuses (running.trans (if_pos hn))
    · exact refuses (running.trans ((if_neg (Nat.not_lt.mpr hn)).trans (if_pos (Option.isNone_iff_eq_none.mpr hw))))
    · have hstarted : ¬ (s.dir.waveGun wave).isNone = true :=
        Option.isNone_iff_eq_none.not.mpr (Option.isSome_iff_ne_none.mp hw)
      rw [served, answered_accepted (running.trans ((if_neg (Nat.not_lt.mpr hn)).trans (if_neg hstarted)))]
      rfl

end Sys2Proof.Machine
end

