-- ==== Sys2Proof/Proofs/FeedIntake.lean ====
section
/-! SUPPORT. Feed intake (O11, O12): REPORT in each case of its checks, MAT STATE and the silence expiry by whether they end the
feed's waiting, and the statements about them. -/

namespace Sys2Proof.Machine

/-! ### A request of the feed role on a feed's port -/

theorem Port.role_of_feed? {p : Port} {x : Feed} (h : p.feed? = some x) : p.role = .feed := by
  cases p with
  | a | b => rfl
  | c | d => cases h

/-- A feed's port takes every request of the feed role that fits its layout to the feed's intake (R22, R183). -/
theorem serve_feed {α : Type} {s : State} {p : Port} {x : Feed} {f : Frame} {rest : List Frame} {k : Byte}
    {layout : List Byte → Option α} {a : α} (act : α → State → Reply) (h : s.Asks p f rest) (hp : p.feed? = some x)
    (hf : f.kind = k) (hl : layout f.payload = some a) (hk : Kind.taken .feed k = true) :
    serve p (ofKind k) layout act s = .next (answered p f (s.taken p rest) (act a (s.taken p rest))) := by
  subst hf
  exact serve_acts act h (beq_self_eq_true f.kind) hl (by rwa [Port.role_of_feed? hp])

theorem execReport_of_asks {s : State} {p : Port} {x : Feed} {f : Frame} {rest : List Frame} {r : Layout.Report}
    (h : s.Asks p f rest) (hp : p.feed? = some x) (hf : f.kind = Kind.report) (hl : Layout.report f.payload = some r) :
    execReport p s = .next (answered p f (s.taken p rest) (report x r (s.taken p rest))) := by
  rw [execReport, serve_feed _ h hp hf hl (by decide), hp]

theorem execMatState_of_asks {s : State} {p : Port} {x : Feed} {f : Frame} {rest : List Frame} {code : Nat}
    (h : s.Asks p f rest) (hp : p.feed? = some x) (hf : f.kind = Kind.matState) (hl : Layout.one 1 f.payload = some code) :
    execMatState p s = .next (answered p f (s.taken p rest) (matState x code (s.taken p rest))) := by
  rw [execMatState, serve_feed _ h hp hf hl (by decide), hp]

/-! ### REPORT (R29-R32) -/

/-- A code names no quality exactly when it is above 3 (R197). -/
theorem Quality.ofCode?_isNone_iff {n : Nat} : (Quality.ofCode? n).isNone = true ↔ 3 < n := by
  match n with
  | 0 | 1 | 2 | 3 | n + 4 => simp [Quality.ofCode?]

/-- The RANGE conditions of R29 that do not read the race clock, written out. -/
theorem reportRange_iff {r : Layout.Report} : reportRange r = true ↔
    r.reads.length = 0 ∨ 32 < r.reads.length ∨ (∃ e ∈ r.reads, e.1 = 0) ∨
      (r.clockless = false ∧ ((∃ e ∈ r.reads, 86400000 < e.2) ∨ 3 < r.quality)) := by
  simp only [reportRange, Bool.or_eq_true, Bool.and_eq_true, Bool.not_eq_true', decide_eq_true_eq, List.any_eq_true,
    beq_iff_eq, Quality.ofCode?_isNone_iff, or_assoc]
  rfl

theorem reportReads_clockless {r : Layout.Report} (sent : Quality) (now : Nat) (current : Quality) (h : r.clockless = true) :
    reportReads r sent now current = r.reads.map (fun e => ⟨e.1, now, current⟩) := by
  simp only [reportReads, h, if_true]

theorem reportReads_clocked {r : Layout.Report} (sent : Quality) (now : Nat) (current : Quality) (h : r.clockless = false) :
    reportReads r sent now current = r.reads.map (fun e => ⟨e.1, e.2, sent⟩) := by
  simp [reportReads, h]

theorem report_out_of_range {r : Layout.Report} (x : Feed) (s : State) (h : reportRange r = true) :
    report x r s = .error .range := if_pos h

theorem report_unset {r : Layout.Report} {s : State} (x : Feed) (h : ¬ reportRange r = true) (he : s.clock.epoch = none) :
    report x r s = .error .state := by
  rw [report, if_neg h, State.raceNow?_unset he]

/-- While the race clock is RUNNING the further checks of REPORT are those of a clockless report's stamp and of the free
places. -/
theorem report_running {r : Layout.Report} {s : State} {e : Nat} (x : Feed) (h : ¬ reportRange r = true)
    (he : s.clock.epoch = some e) :
    report x r s =
      let fs := s.feed x
      if r.clockless = true ∧ maxRaceTime < s.now - e then .error .range
      else if feedQueueCap < fs.queue.length + r.reads.length then .error .full
      else .ok (s.setFeed x { fs with
          queue := fs.queue ++ reportReads r ((Quality.ofCode? r.quality).getD .exact) (s.now - e) s.quality
          counts := fs.counts.add r.reads.length .queued },
        le 1 r.reads.length ++ le 1 0 ++ le 2 (feedQueueCap - (fs.queue.length + r.reads.length))) := by
  rw [report, if_neg h, State.raceNow?_running he]
  simp only [Bool.and_eq_true, decide_eq_true_eq, List.length_append, reportReads, List.length_map]

/-! ### The waiting status (R26, R53) -/

theorem FeedState.waiting_iff {fs : FeedState} : fs.waiting = true ↔ fs.link = .active ∧ fs.mat = .armed := by
  simp only [waiting, Bool.and_eq_true, beq_iff_eq]

/-- A change that does not end a feed's waiting changes the feed alone. -/
theorem State.updateFeed_of_not_ended {s : State} {x : Feed} {fs : FeedState}
    (h : (s.feed x).waiting = true → fs.waiting = true) : s.updateFeed x fs = s.setFeed x fs := by
  refine if_neg ?_
  rw [Bool.and_eq_true, Bool.not_eq_true', ← Bool.not_eq_true]
  exact fun ⟨before, after⟩ => after (h before)

/-- A change that ends a feed's waiting is handed to the engine. -/
theorem State.updateFeed_of_ended {s : State} {x : Feed} {fs : FeedState} (h : (s.feed x).waiting = true)
    (h' : ¬ fs.waiting = true) :
    s.updateFeed x fs = { s.setFeed x fs with engine := s.engine.waitingEnded x s.now } := by
  refine if_pos ?_
  rw [Bool.and_eq_true, Bool.not_eq_true', ← Bool.not_eq_true]
  exact ⟨h, h'⟩

/-! ### MAT STATE (R25) -/

theorem MatState.ofCode?_other {n : Nat} (h0 : n ≠ 0) (h1 : n ≠ 1) : MatState.ofCode? n = none := by
  match n with
  | 0 => exact absurd rfl h0
  | 1 => exact absurd rfl h1
  | _ + 2 => rfl

theorem matState_out_of_range {code : Nat} (x : Feed) (s : State) (h0 : code ≠ 0) (h1 : code ≠ 1) :
    matState x code s = .error .range := by
  rw [matState, MatState.ofCode?_other h0 h1]

theorem matState_taken {code : Nat} {m : MatState} (x : Feed) (s : State) (h : MatState.ofCode? code = some m) :
    matState x code s = .ok (s.updateFeed x { s.feed x with mat := m },
      le 1 m.code ++ le 2 (s.feed x).queue.length ++ le 2 (feedQueueCap - (s.feed x).queue.length)) := by
  rw [matState, h]

/-! ### The silence expiry (R24) -/

theorem silenceDue_of_elapsed {s : State} {x : Feed} {t : Nat} (hh : s.held = false) (hl : (s.feed x).link = .active)
    (ht : (s.feed x).lastFrame = some t) (h : t + silenceInterval ≤ s.now) : silenceDue x s = true := by
  simp [silenceDue, hh, hl, ht, h]

/-- FEED is raised while the race clock is RUNNING; the expiry then updates the feed. -/
theorem silence_eq (x : Feed) (s : State) :
    silence x s = (if s.clock.epoch = none then s else raiseFault .feed x.code s).updateFeed x
      { s.feed x with link := .silent } := by
  unfold silence
  cases h : s.clock.epoch with
  | none => rfl
  | some e => simp [State.feed]

/-! ### The statements -/

/-- Settles O11: the checks are those of `report` in their order, and an accepted report appends its `reportReads`. -/
theorem reportTaken : Obligations.ReportTaken := by
  intro s p x f rest r ha hp hk hl refused outOfRange fs
  have served : exec (.report p) s = .next (answered p f (s.taken p rest) (report x r (s.taken p rest))) :=
    execReport_of_asks ha hp hk hl
  have refuses {why} (h : report x r (s.taken p rest) = .error why) : refused why := by
    simp only [refused, served, answered_refused h]
  have hrange : outOfRange ↔ reportRange r = true := reportRange_iff.symm
  rw [hrange]
  have running {e} (h : ¬ reportRange r = true) (he : s.clock.epoch = some e) :=
    report_running (s := s.taken p rest) x h he
  refine ⟨fun h => refuses (report_out_of_range x _ h), fun h he => refuses (report_unset x h he),
    fun e he hc hlate => ?_, fun e he h htime => ?_⟩
  · by_cases h : reportRange r = true
    · exact refuses (report_out_of_range x _ h)
    · exact refuses ((running h he).trans (if_pos ⟨hc, hlate⟩))
  · have in_time : ¬ (r.clockless = true ∧ maxRaceTime < s.now - e) :=
      fun ⟨hc, hlate⟩ => Nat.not_lt.mpr (htime hc) hlate
    refine ⟨fun hfull => ?_, fun reads hreads hfree => ?_⟩
    · exact refuses ((running h he).trans ((if_neg in_time).trans (if_pos hfull)))
    · have reads_eq : reads = reportReads r ((Quality.ofCode? r.quality).getD .exact) (s.now - e) s.quality := by
        cases hc : r.clockless with
        | true =>
          rw [if_pos hc] at hreads
          rw [hreads, reportReads_clockless _ _ _ hc, State.quality]
          cases s.clock.current <;> rfl
        | false =>
          rw [hc] at hreads
          obtain ⟨q, hq, rfl⟩ := hreads
          rw [reportReads_clocked _ _ _ hc, hq, Option.getD_some]
      rw [served, answered_accepted ((running h he).trans ((if_neg in_time).trans (if_neg (Nat.not_lt.mpr hfree)))), reads_eq]
      rfl

/-- Settles O12: both events come to `updateFeed`, which moves deadlines exactly when the feed was waiting and is not any
more. -/
theorem waitingEnds : Obligations.WaitingEnds := by
  refine ⟨fun s p x f rest code ha hp hk hpl => ?_, fun s x t hh hlink hlast ht => ?_⟩
  · intro answer u
    have fits : Layout.one 1 f.payload = some code.toNat := by rw [hpl]; rfl
    have served : exec (.matState p) s = .next (answered p f u (matState x code.toNat u)) :=
      execMatState_of_asks ha hp hk fits
    have accepted {m} (hm : MatState.ofCode? code.toNat = some m) :=
      answered_accepted (p := p) (f := f) (s := u) (matState_taken x u hm)
    refine ⟨fun h0 h1 => ?_, ?_, ?_, ?_⟩
    · have n0 : code.toNat ≠ 0 := fun h => h0 (BitVec.eq_of_toNat_eq h)
      have n1 : code.toNat ≠ 1 := fun h => h1 (BitVec.eq_of_toNat_eq h)
      rw [served, answered_refused (matState_out_of_range x u n0 n1)]
    · rintro rfl
      have not_ended : (u.feed x).waiting = true → ({ u.feed x with mat := .armed } : FeedState).waiting = true :=
        fun h => FeedState.waiting_iff.mpr ⟨(FeedState.waiting_iff.mp h).1, rfl⟩
      simp only [answer, served, accepted rfl, State.updateFeed_of_not_ended not_ended]
      rfl
    · rintro rfl hw
      have not_waiting : ¬ (u.feed x).waiting = true := by
        rw [FeedState.waiting_iff]
        rintro ⟨hactive, harmed⟩
        rcases hw with h | h
        · cases h.symm.trans hactive
        · cases h.symm.trans harmed
      simp only [answer, served, accepted rfl, State.updateFeed_of_not_ended (absurd · not_waiting)]
      rfl
    · rintro rfl hactive harmed
      have waited : (u.feed x).waiting = true := FeedState.waiting_iff.mpr ⟨hactive, harmed⟩
      have ended : ¬ ({ u.feed x with mat := .disarmed } : FeedState).waiting = true :=
        fun h => MatState.noConfusion (FeedState.waiting_iff.mp h).2
      simp only [answer, served, accepted rfl, State.updateFeed_of_ended waited ended]
      rfl
  · intro u silent
    have expires : exec (.silenceExpiry x) s = .next (u.updateFeed x { s.feed x with link := .silent }) := by
      have raised : u = if s.clock.epoch = none then s else raiseFault .feed x.code s := by
        cases x <;> rfl
      rw [raised, ← silence_eq]
      exact if_pos (silenceDue_of_elapsed hh hlink hlast ht)
    have feed_eq : u.feed x = s.feed x := by
      simp only [u]
      split <;> simp [State.feed]
    refine ⟨fun hm => ?_, fun hm => ?_⟩
    · have not_waiting : ¬ (u.feed x).waiting = true := by
        rw [feed_eq, FeedState.waiting_iff, hm]
        exact fun h => MatState.noConfusion h.2
      rw [expires, State.updateFeed_of_not_ended (absurd · not_waiting)]
    · have waited : (u.feed x).waiting = true := by
        rw [feed_eq]
        exact FeedState.waiting_iff.mpr ⟨hlink, hm⟩
      have ended : ¬ ({ s.feed x with link := .silent } : FeedState).waiting = true :=
        fun h => LinkState.noConfusion (FeedState.waiting_iff.mp h).1
      have engine_eq : u.engine = s.engine := by
        simp only [u]
        split <;> simp
      have now_eq : u.now = s.now := by
        simp only [u, State.now]
        split <;> simp
      rw [expires, State.updateFeed_of_ended waited ended, engine_eq, now_eq]
      rfl

end Sys2Proof.Machine
end


section
/-! SUPPORT. Crossings (O18, O20): POINT SET in each case of its checks, the resolution of a chip code, and the judgement of a
read step by step up to the gun test, with the statements about them. -/

namespace Sys2Proof.Machine

/-! ### POINT SET (R40) -/

/-- The ranges of the point settings, written out. -/
theorem pointOk_iff {p : PointSettings} : PointOk p = true ↔
    (1 ≤ p.passes ∧ p.passes ≤ 2) ∧ (1 ≤ p.distance1 ∧ p.distance1 ≤ 50000) ∧
      (p.distance1 < p.distance2 ∧ p.distance2 ≤ 50000) ∧ (2000 ≤ p.settleWindow ∧ p.settleWindow ≤ 30000) ∧
      (10 ≤ p.rearmGap ∧ p.rearmGap ≤ 240) ∧ (30 ≤ p.lateLimit ∧ p.lateLimit ≤ 600) := by
  simp only [PointOk, Bool.and_eq_true, decide_eq_true_eq, and_assoc]

theorem pointSet_out_of_range {p : PointSettings} (s : State) (h : ¬ PointOk p = true) : pointSet p s = .error .range :=
  if_pos (by simpa using h)

/-- Settings in range are left to the one further check, that of the race clock. -/
theorem pointSet_in_range {p : PointSettings} (s : State) (h : PointOk p = true) :
    pointSet p s = if s.clock.epoch.isSome then .error .state
      else .ok ({ s with engine := { s.engine with point := p } }, pointBytes p) := by
  rw [pointSet, h]
  rfl

theorem pointSet_running {p : PointSettings} {s : State} (h : PointOk p = true) (he : s.clock.epoch.isSome = true) :
    pointSet p s = .error .state := (pointSet_in_range s h).trans (if_pos he)

theorem pointSet_unset {p : PointSettings} {s : State} (h : PointOk p = true) (he : s.clock.epoch = none) :
    pointSet p s = .ok ({ s with engine := { s.engine with point := p } }, pointBytes p) :=
  (pointSet_in_range s h).trans (if_neg (Option.not_isSome_iff_eq_none.mpr he))

/-! ### The directory's answer to a chip code (R12) -/

theorem resolveChip_of_bib {chip : Nat} (d : Directory) (h : chip ≤ maxBib) : resolveChip d chip = .bib chip := if_pos h

theorem resolveChip_of_bar {d : Directory} {chip : Nat} (h : maxBib < chip) (ha : d.aliasOf chip = some 0) :
    resolveChip d chip = .barred := by
  rw [resolveChip, if_neg (Nat.not_le.mpr h), ha]

theorem resolveChip_of_no_entry {d : Directory} {chip : Nat} (h : maxBib < chip) (ha : d.aliasOf chip = none) :
    resolveChip d chip = .noBib := by
  rw [resolveChip, if_neg (Nat.not_le.mpr h), ha]

theorem resolveChip_of_alias {d : Directory} {chip bib : Nat} (h : maxBib < chip) (hb : bib ≠ 0)
    (ha : d.aliasOf chip = some bib) : resolveChip d chip = .bib bib := by
  obtain ⟨b, rfl⟩ := Nat.exists_eq_succ_of_ne_zero hb
  rw [resolveChip, if_neg (Nat.not_le.mpr h), ha]

/-- The two ways to a bib: the chip code is the bib itself, or an entry of the map (R13) gives it. -/
theorem resolveChip_eq_bib {d : Directory} {chip bib : Nat}
    (h : chip ≤ maxBib ∧ bib = chip ∨ maxBib < chip ∧ bib ≠ 0 ∧ d.aliasOf chip = some bib) :
    resolveChip d chip = .bib bib := by
  rcases h with ⟨hc, rfl⟩ | ⟨hc, hb, ha⟩
  · exact resolveChip_of_bib d hc
  · exact resolveChip_of_alias hc hb ha

/-! ### The judgement of a read by what its chip code resolves to (R44) -/

section Judge

variable {s : State} {r : JudgedRead} {bib : Nat} (raceNow : Nat)

theorem judge_barred (h : resolveChip s.dir r.chip = .barred) : judge r raceNow s = s.count r.feed .barred := by
  rw [judge, h]

theorem judge_no_bib (h : resolveChip s.dir r.chip = .noBib) : judge r raceNow s = holdRead r .unknownChip s := by
  rw [judge, h]

/-- With a bib, the judgement turns on the record that the checked read gives. -/
theorem judge_bib (h : resolveChip s.dir r.chip = .bib bib) :
    judge r raceNow s = if (readChecked bib s).1.state = .empty then holdRead r .unknownChip (readChecked bib s).2
      else judgeRunner bib (readChecked bib s).1 r raceNow (readChecked bib s).2 := by
  rw [judge, h]

theorem judge_empty (h : resolveChip s.dir r.chip = .bib bib) (he : (readChecked bib s).1.state = .empty) :
    judge r raceNow s = holdRead r .unknownChip (readChecked bib s).2 :=
  (judge_bib raceNow h).trans (if_pos he)

theorem judge_runner (h : resolveChip s.dir r.chip = .bib bib) (he : (readChecked bib s).1.state ≠ .empty) :
    judge r raceNow s = judgeRunner bib (readChecked bib s).1 r raceNow (readChecked bib s).2 :=
  (judge_bib raceNow h).trans (if_neg he)

end Judge

/-! ### Steps 2 to 5 for a runner whose record is not EMPTY (R45-R47) -/

section JudgeRunner

variable {rec : RecordFields} {r : JudgedRead} {raceNow gun : Nat} (bib : Nat) (s : State)

theorem judgeRunner_suspect (h : rec.suspect = true) :
    judgeRunner bib rec r raceNow s = holdRead r (.suspect bib) s := if_pos h

theorem judgeRunner_withdrawn (h : rec.suspect = false) (hw : rec.state = .withdrawn) :
    judgeRunner bib rec r raceNow s = s.count r.feed .withdrawn := by
  rw [judgeRunner, h, if_neg Bool.false_ne_true, if_pos hw]

/-- A runner who is ENTERED and not suspect is past steps 2 and 3. -/
theorem judgeRunner_entered (h : rec.suspect = false) (he : rec.state = .entered) :
    judgeRunner bib rec r raceNow s =
      if raceNow + futureTolerance < r.time then s.count r.feed .future
      else (s.dir.waveGun rec.wave).elim (holdRead r (.wave bib rec.wave) s)
        (fun gun => if r.time < gun then s.count r.feed .beforeGun else placeRead bib rec r s) := by
  have not_withdrawn : rec.state ≠ .withdrawn := fun hw => RunnerState.noConfusion (he.symm.trans hw)
  rw [judgeRunner, h, if_neg Bool.false_ne_true, if_neg not_withdrawn]
  cases s.dir.waveGun rec.wave with
  | none | some gun => rfl

theorem judgeRunner_future (h : rec.suspect = false) (he : rec.state = .entered)
    (ht : raceNow + futureTolerance < r.time) : judgeRunner bib rec r raceNow s = s.count r.feed .future :=
  (judgeRunner_entered bib s h he).trans (if_pos ht)

variable {s}

theorem judgeRunner_waiting_wave (h : rec.suspect = false) (he : rec.state = .entered)
    (ht : r.time ≤ raceNow + futureTolerance) (hw : s.dir.waveGun rec.wave = none) :
    judgeRunner bib rec r raceNow s = holdRead r (.wave bib rec.wave) s := by
  rw [judgeRunner_entered bib s h he, if_neg (Nat.not_lt.mpr ht), hw, Option.elim]

theorem judgeRunner_started_wave (h : rec.suspect = false) (he : rec.state = .entered)
    (ht : r.time ≤ raceNow + futureTolerance) (hw : s.dir.waveGun rec.wave = some gun) :
    judgeRunner bib rec r raceNow s =
      if r.time < gun then s.count r.feed .beforeGun else placeRead bib rec r s := by
  rw [judgeRunner_entered bib s h he, if_neg (Nat.not_lt.mpr ht), hw, Option.elim]

end JudgeRunner

/-- The check of a record starts no wave. -/
theorem readChecked_waveGun (bib wave : Nat) (s : State) : (readChecked bib s).2.dir.waveGun wave = s.dir.waveGun wave :=
  congrArg (Table.get? · wave) (readChecked_keeps bib s).1

/-! ### The statements -/

/-- Settles O18: the two checks of `pointSet` in their order, and the settings it then echoes. -/
theorem pointSetTaken : Obligations.PointSetTaken := by
  intro s f rest x ha hk hl u inRange
  have served : exec (.pointSet .c) s = .next (answered .c f u (pointSet x u)) :=
    serve_control pointSet ha hk hl (by decide)
  have hrange : inRange ↔ PointOk x = true := pointOk_iff.symm
  rw [served, hrange]
  refine ⟨fun h => ?_, fun h he => ?_, fun h he => ?_⟩
  · rw [answered_refused (pointSet_out_of_range u h)]
  · rw [answered_refused (pointSet_running (s := u) h he)]
  · rw [answered_accepted (pointSet_unset (s := u) h he)]
    rfl

/-- Settles O20: each clause takes the branch of `judge` or, past step 1, of `judgeRunner` that its premises name; the guns are
those from before the check of the record, which changes no wave. -/
theorem readIsResolved : Obligations.ReadIsResolved := by
  intro s r raceNow
  refine ⟨fun hc ha => judge_barred raceNow (resolveChip_of_bar hc ha),
    fun hc ha => judge_no_bib raceNow (resolveChip_of_no_entry hc ha), fun bib hbib => ?_⟩
  intro rd t known inTime
  have resolved : resolveChip s.dir r.chip = .bib bib := resolveChip_eq_bib hbib
  have runner (he : rd.state ≠ .empty) : judge r raceNow s = judgeRunner bib rd r raceNow t :=
    judge_runner raceNow resolved he
  have same_gun : t.dir.waveGun rd.wave = s.dir.waveGun rd.wave := readChecked_waveGun bib rd.wave s
  refine ⟨judge_empty raceNow resolved, fun he hs => ?_, fun ⟨he, hs⟩ hw => ?_, fun ⟨he, hs⟩ hentered ht => ?_,
    fun ⟨⟨he, hs⟩, hentered, ht⟩ hwave => ?_, fun gun ⟨⟨he, hs⟩, hentered, ht⟩ hwave => ?_⟩
  · exact (runner he).trans (judgeRunner_suspect bib t hs)
  · exact (runner he).trans (judgeRunner_withdrawn bib t hs hw)
  · exact (runner he).trans (judgeRunner_future bib t hs hentered ht)
  · exact (runner he).trans (judgeRunner_waiting_wave bib hs hentered ht (same_gun.trans hwave))
  · have started := (runner he).trans (judgeRunner_started_wave bib hs hentered ht (same_gun.trans hwave))
    exact ⟨fun hg => started.trans (if_pos hg), fun hg => started.trans (if_neg (Nat.not_lt.mpr hg))⟩

end Sys2Proof.Machine
end

section
/-! SUPPORT. The hold list (O23, O24): what a hold handed over does in each case, HOLD RESOLVE by its refusals, its write of the
alias map and its two outcomes, and the statements about them. -/

namespace Sys2Proof.Machine

/-! ### The worse of two qualities (03 section 3.1) -/

/-- The codes of R197 number the qualities from the best to the worst. -/
theorem Quality.idxOf_order (q : Quality) : [Quality.exact, .tracked, .holdover, .localRc].idxOf q = q.code := by
  cases q <;> rfl

theorem Quality.eq_of_code_eq {p q : Quality} (h : p.code = q.code) : p = q := by
  rw [← idxOf_order, ← idxOf_order] at h
  exact (List.idxOf_inj (by cases p <;> decide)).mp h

/-- On a tie the two qualities are one. -/
theorem Quality.worse_eq (p q : Quality) : p.worse q = if p.code ≤ q.code then q else p := by
  rcases lt_trichotomy p.code q.code with h | h | h
  · rw [Quality.worse, if_pos h, if_pos h.le]
  · rw [eq_of_code_eq h, Quality.worse, ite_self, ite_self]
  · rw [Quality.worse, if_neg h.not_gt, if_neg h.not_ge]

/-! ### A hold handed over (R69-R71) -/

theorem HoldUnit.find?_isSome {h : HoldUnit} {chip : Nat} : (h.find? chip).isSome = true ↔ ∃ e ∈ h.list, e.chip = chip := by
  simp [HoldUnit.find?]

/-- The state in which a hold has joined the list at its newest end, HELD counted against its feed. -/
def State.listHold (s : State) (r : JudgedRead) (reason : HoldReason) : State :=
  { s.count r.feed .held with hold := { s.hold with list := s.hold.list ++ [newHold r reason s.now] } }

section HoldRead

variable {s : State} {r : JudgedRead} (reason : HoldReason)

theorem holdRead_merges (h : ∃ e ∈ s.hold.list, e.chip = r.chip) :
    holdRead r reason s = { s.count r.feed .held with
      hold := { s.hold with list := s.hold.list.map (fun e => if e.chip = r.chip then e.merge r reason else e) } } :=
  if_pos (HoldUnit.find?_isSome.mpr h)

/-- The hold of a chip code that no entry holds is left to the room in the list. -/
theorem holdRead_unlisted (h : ¬ ∃ e ∈ s.hold.list, e.chip = r.chip) :
    holdRead r reason s =
      if s.hold.list.length < holdCap then
        if s.hold.list = [] then
          (s.listHold r reason).notice Kind.holdNotice (holdNoticePayload (newHold r reason s.now))
        else s.listHold r reason
      else discardHold r.feed r.chip s :=
  if_neg (HoldUnit.find?_isSome.not.mpr h)

theorem holdRead_first (h : ¬ ∃ e ∈ s.hold.list, e.chip = r.chip) (hl : s.hold.list = []) :
    holdRead r reason s =
      (s.listHold r reason).notice Kind.holdNotice (holdNoticePayload (newHold r reason s.now)) := by
  have room : s.hold.list.length < holdCap := by
    rw [hl]
    decide
  rw [holdRead_unlisted reason h, if_pos room, if_pos hl]

theorem holdRead_joins (h : ¬ ∃ e ∈ s.hold.list, e.chip = r.chip) (hl : s.hold.list ≠ [])
    (room : s.hold.list.length < holdCap) : holdRead r reason s = s.listHold r reason := by
  rw [holdRead_unlisted reason h, if_pos room, if_neg hl]

theorem holdRead_discards (h : ¬ ∃ e ∈ s.hold.list, e.chip = r.chip) (full : holdCap ≤ s.hold.list.length) :
    holdRead r reason s = discardHold r.feed r.chip s := by
  rw [holdRead_unlisted reason h, if_neg (Nat.not_lt.mpr full)]

end HoldRead

/-! ### HOLD RESOLVE: its two rows -/

/-- The resolution byte that picks the row is the resolution of the layout. -/
theorem namesReject_eq {f : Frame} {r : Layout.Resolve} (h : Layout.holdResolve f.payload = some r) :
    namesReject f = (r.resolution == 1) := by
  unfold Layout.holdResolve at h
  split at h
  · cases h
    rfl
  · cases h

/-- In the row that its resolution names, HOLD RESOLVE on port C comes to its own checks. -/
theorem exec_holdResolve {s : State} {f : Frame} {rest : List Frame} {r : Layout.Resolve} (h : s.Asks .c f rest)
    (hk : f.kind = Kind.holdResolve) (hl : Layout.holdResolve f.payload = some r) :
    exec (if r.resolution = 1 then .holdResolveReject .c else .holdResolveAdmit .c) s =
      .next (answered .c f (s.taken .c rest) (holdResolve r (s.taken .c rest))) := by
  have role : Kind.taken Port.c.role f.kind = true := by
    rw [hk]
    decide
  by_cases hr : r.resolution = 1
  · rw [if_pos hr]
    exact serve_acts holdResolve h (by simp [hk, namesReject_eq hl, hr]) hl role
  · rw [if_neg hr]
    exact serve_acts holdResolve h (by simp [hk, namesReject_eq hl, hr]) hl role

/-! ### HOLD RESOLVE: the refusals in their order (R75) -/

/-- The STATE conditions: an ADMIT to a runner who is not ENTERED, and an entry that is marked releasing. -/
def Layout.Resolve.WrongState (r : Layout.Resolve) (s : State) : Prop :=
  (r.resolution = 0 ∧ (s.dir.record r.bib).fields.state ≠ .entered) ∨
    ∃ e, s.hold.find? r.chip = some e ∧ e.releasing = true

/-- The FULL condition: an ADMIT that needs an entry of the alias map when none is free. -/
def Layout.Resolve.MapFull (r : Layout.Resolve) (d : Directory) : Prop :=
  r.resolution = 0 ∧ maxBib < r.chip ∧ (¬ ∃ x ∈ d.aliasMap, x.1 = r.chip) ∧ aliasCap ≤ d.aliasMap.length

section Resolve

variable {r : Layout.Resolve} {s : State}

/-- The RANGE conditions of R75, written out. -/
theorem resolveRange_iff : resolveRange r = true ↔
    1 < r.resolution ∨ r.chip = 0 ∨
      (r.resolution = 0 ∧ (r.bib = 0 ∨ 60000 < r.bib ∨ (r.chip ≤ 60000 ∧ r.bib ≠ r.chip))) := by
  have hbib : (!bibOk r.bib) = true ↔ r.bib = 0 ∨ 60000 < r.bib := by
    rw [Bool.not_eq_true', ← Bool.not_eq_true, bibOk_iff]
    omega
  simp only [resolveRange, Bool.or_eq_true, Bool.and_eq_true, hbib, decide_eq_true_eq, or_assoc]
  rfl

theorem holdResolve_refused {why : Reason} (h : resolveRefusal r s = some why) : holdResolve r s = .error why := by
  rw [holdResolve, h]

theorem resolveRefusal_range (h : resolveRange r = true) : resolveRefusal r s = some .range := if_pos h

theorem resolveRefusal_state (h : ¬ resolveRange r = true) (hw : r.WrongState s) : resolveRefusal r s = some .state := by
  rw [resolveRefusal, if_neg h]
  by_cases hr : r.resolution = 0 ∧ (s.dir.record r.bib).fields.state ≠ .entered
  · exact if_pos hr
  · rw [if_neg hr, if_pos ((Option.any_eq_true _ _).mpr (hw.resolve_left hr))]

/-- Past RANGE and STATE. -/
theorem resolveRefusal_right_state (h : ¬ resolveRange r = true) (hw : ¬ r.WrongState s) :
    resolveRefusal r s =
      if r.resolution = 0 ∧ (decide (maxBib < r.chip) && (s.dir.aliasOf r.chip).isNone
          && decide (aliasCap ≤ s.dir.aliasMap.length)) = true then some .full
      else if (s.hold.find? r.chip).isNone then some .unknown else none := by
  obtain ⟨hr, he⟩ := not_or.mp hw
  rw [resolveRefusal, if_neg h, if_neg hr, if_neg ((Option.any_eq_true _ _).not.mpr he)]

theorem mapFull_iff : r.MapFull s.dir ↔
    r.resolution = 0 ∧ (decide (maxBib < r.chip) && (s.dir.aliasOf r.chip).isNone
      && decide (aliasCap ≤ s.dir.aliasMap.length)) = true := by
  have hnone : (s.dir.aliasOf r.chip).isNone = true ↔ ¬ ∃ x ∈ s.dir.aliasMap, x.1 = r.chip := by
    rw [← Directory.aliasOf_isSome, Option.not_isSome_iff_eq_none, Option.isNone_iff_eq_none]
  simp only [Layout.Resolve.MapFull, Bool.and_eq_true, decide_eq_true_eq, hnone, and_assoc]

theorem resolveRefusal_full (h : ¬ resolveRange r = true) (hw : ¬ r.WrongState s) (hf : r.MapFull s.dir) :
    resolveRefusal r s = some .full :=
  (resolveRefusal_right_state h hw).trans (if_pos (mapFull_iff.mp hf))

/-- Past FULL the one check left is that of the entry. -/
theorem resolveRefusal_has_room (h : ¬ resolveRange r = true) (hw : ¬ r.WrongState s) (hf : ¬ r.MapFull s.dir) :
    resolveRefusal r s = if (s.hold.find? r.chip).isNone then some .unknown else none :=
  (resolveRefusal_right_state h hw).trans (if_neg (mapFull_iff.not.mp hf))

theorem resolveRefusal_unknown (h : ¬ resolveRange r = true) (hw : ¬ r.WrongState s) (hf : ¬ r.MapFull s.dir)
    (he : s.hold.find? r.chip = none) : resolveRefusal r s = some .unknown := by
  rw [resolveRefusal_has_room h hw hf, he]
  rfl

theorem resolveRefusal_none {e : HoldEntry} (h : ¬ resolveRange r = true) (hw : ¬ r.WrongState s)
    (hf : ¬ r.MapFull s.dir) (he : s.hold.find? r.chip = some e) : resolveRefusal r s = none := by
  rw [resolveRefusal_has_room h hw hf, he]
  rfl

/-! ### HOLD RESOLVE: the two outcomes (R76, R77) -/

theorem acceptAdmit_eq : acceptAdmit r s =
    ({ s with
        dir := (resolveWrite r.chip r.bib s.dir).2
        hold := { s.hold with
          list := s.hold.list.map (fun x => if x.chip = r.chip then { x with releasing := true } else x) } },
      resolveResults r (resolveWrite r.chip r.bib s.dir).1 (resolveWrite r.chip r.bib s.dir).2) := by
  have marked : s.hold.mark (fun e => e.chip == r.chip) = { s.hold with
      list := s.hold.list.map (fun x => if x.chip = r.chip then { x with releasing := true } else x) } :=
    HoldUnit.mark_eq_map fun e => by simp only [beq_iff_eq]
  rw [acceptAdmit, marked]

/-- An entry that leaves takes the hold over flag with it when it was the last (R72). -/
theorem HoldUnit.remove_eq (h : HoldUnit) (chip : Nat) :
    h.remove chip =
      let left := h.list.filter (fun x => x.chip != chip)
      { h with list := left, holdOver := if left = [] then false else h.holdOver } := by
  unfold HoldUnit.remove HoldUnit.settle
  dsimp only
  split <;> rfl

theorem acceptReject_eq {e : HoldEntry} (he : s.hold.find? r.chip = some e) : acceptReject r s =
    ({ s.count e.feed .barred with dir := (resolveWrite r.chip 0 s.dir).2, hold := s.hold.remove r.chip },
      resolveResults r (resolveWrite r.chip 0 s.dir).1 (resolveWrite r.chip 0 s.dir).2) := by
  rw [acceptReject, he]
  rfl

theorem holdResolve_admits (h : resolveRefusal r s = none) (hr : r.resolution ≠ 1) :
    holdResolve r s = .ok (acceptAdmit r s) := by
  rw [holdResolve, h, if_neg hr]

theorem holdResolve_rejects (h : resolveRefusal r s = none) (hr : r.resolution = 1) :
    holdResolve r s = .ok (acceptReject r s) := by
  rw [holdResolve, h, if_pos hr]

end Resolve

/-- The alias map after a resolution: the code's entry is replaced, else a free entry is taken, else nothing is written (R76,
R77). -/
def resolvedMap (chip bib : Nat) (map : List (Nat × Nat)) : List (Nat × Nat) :=
  if maxBib < chip ∧ ∃ x ∈ map, x.1 = chip then map.map (fun x => if x.1 = chip then (chip, bib) else x)
  else if maxBib < chip ∧ (¬ ∃ x ∈ map, x.1 = chip) ∧ map.length < aliasCap then map ++ [(chip, bib)]
  else map

/-- How the write went, as the results carry it (R197). -/
def resolvedCode (chip : Nat) (map : List (Nat × Nat)) : Nat :=
  if maxBib < chip ∧ ∃ x ∈ map, x.1 = chip then 1
  else if maxBib < chip ∧ (¬ ∃ x ∈ map, x.1 = chip) ∧ map.length < aliasCap then 0
  else 2

/-- The write of a resolution is ALIAS SET's for a code above 60,000, and none for a direct code. -/
theorem resolveWrite_spec (chip bib : Nat) (d : Directory) :
    (resolveWrite chip bib d).1.code = resolvedCode chip d.aliasMap ∧
      (resolveWrite chip bib d).2 = { d with aliasMap := resolvedMap chip bib d.aliasMap } := by
  by_cases hc : maxBib < chip
  · rw [resolveWrite, if_pos hc]
    by_cases hm : ∃ x ∈ d.aliasMap, x.1 = chip
    · simp only [d.writeAlias_replaces bib hm, resolvedCode, resolvedMap, hc, hm, and_self, if_true]
      exact ⟨rfl, trivial⟩
    · have unmapped : ∀ e ∈ d.aliasMap, e.1 ≠ chip := fun e he hx => hm ⟨e, he, hx⟩
      by_cases room : d.aliasMap.length < aliasCap
      · simp only [d.writeAlias_takes bib unmapped room, resolvedCode, resolvedMap, hc, hm, room, and_false,
          not_false_eq_true, and_self, if_false, if_true]
        exact ⟨rfl, trivial⟩
      · simp only [d.writeAlias_full bib unmapped (Nat.not_lt.mp room), resolvedCode, resolvedMap, hm, room, and_false,
          if_false]
        exact ⟨rfl, trivial⟩
  · simp only [resolveWrite, resolvedCode, resolvedMap, hc, false_and, if_false]
    exact ⟨rfl, trivial⟩

/-! ### The statements -/

/-- Settles O23: the branches of `holdRead`, by whether the chip code is listed and by the room in the list, and the order of
the qualities by their codes. -/
theorem holdIsTaken : Obligations.HoldIsTaken := by
  refine ⟨fun s r reason => ?_, fun p q => ?_⟩
  · refine ⟨fun h => holdRead_merges reason h, fun h hl => ?_, fun h hl room => holdRead_joins reason h hl room,
      fun h full => holdRead_discards reason h full⟩
    rw [holdRead_first reason h hl]
    cases reason with
    | unknownChip | wave _ _ | suspect _ => rfl
  · intro order
    rw [Quality.idxOf_order, Quality.idxOf_order, Quality.worse_eq]

/-- Settles O24: the refusals are those of `resolveRefusal` in their order, and an accepted resolution writes the alias map as
`resolveWrite` does. -/
theorem holdResolveTaken : Obligations.HoldResolveTaken := by
  intro s f rest r ha hk hl u row refused map mapped outOfRange wrongState full bib taken map' written results dir'
  have served : exec row s = .next (answered .c f u (holdResolve r u)) := exec_holdResolve ha hk hl
  have refuses {why} (h : resolveRefusal r u = some why) : refused why := by
    simp only [refused, served, answered_refused (holdResolve_refused h)]
  have hrange : outOfRange ↔ resolveRange r = true := resolveRange_iff.symm
  rw [hrange]
  refine ⟨fun h => refuses (resolveRefusal_range h), fun h hw => refuses (resolveRefusal_state h hw),
    fun h hw hf => refuses (resolveRefusal_full h hw hf),
    fun h hw hf he => refuses (resolveRefusal_unknown h hw hf he), fun e h hw hf he => ?_⟩
  have accepted : resolveRefusal r u = none := resolveRefusal_none h hw hf he
  have hdir : (resolveWrite r.chip bib s.dir).2 = dir' := (resolveWrite_spec r.chip bib s.dir).2
  have hresults : resolveResults r (resolveWrite r.chip bib s.dir).1 (resolveWrite r.chip bib s.dir).2 = results := by
    rw [resolveResults, (resolveWrite_spec r.chip bib s.dir).1, hdir]
    rfl
  rw [served, ← hresults, ← hdir]
  refine ⟨fun hr => ?_, fun hr => ?_⟩
  · have not_reject : r.resolution ≠ 1 := by omega
    have hbib : bib = r.bib := if_neg not_reject
    rw [answered_accepted ((holdResolve_admits accepted not_reject).trans (congrArg _ acceptAdmit_eq)), hbib]
    rfl
  · have hbib : bib = 0 := if_pos hr
    rw [answered_accepted ((holdResolve_rejects accepted hr).trans (congrArg _ (acceptReject_eq he))),
      HoldUnit.remove_eq, hbib]
    rfl

end Sys2Proof.Machine
end

section
/-! SUPPORT. The split log and the two list reads (O26, O27): an append by the room in the log, the entries an answer carries by
their sequences, the rows of both answers field by field, and the statements about them. -/

namespace Sys2Proof.Machine

/-! ### An append (R94, R95) -/

theorem SplitLog.append_entries_of_room {l : SplitLog} (h : l.entries.length < logCap) (kind : EntryKind) (bib : Nat)
    (figs : Option Figures) (place : Option Nat) (flags : SplitFlags) :
    (l.append kind bib figs place flags).entries = l.entries ++ [⟨l.newest + 1, kind, bib, figs, place, flags⟩] := by
  simp only [append, if_neg (Nat.not_le.mpr h)]

theorem SplitLog.append_entries_of_full {l : SplitLog} {oldest : LogEntry} {kept : List LogEntry}
    (h : l.entries = oldest :: kept) (hl : l.entries.length = logCap) (kind : EntryKind) (bib : Nat)
    (figs : Option Figures) (place : Option Nat) (flags : SplitFlags) :
    (l.append kind bib figs place flags).entries = kept ++ [⟨l.newest + 1, kind, bib, figs, place, flags⟩] := by
  have one_too_many : l.entries.length + 1 - logCap = 1 := by omega
  simp only [append, if_pos hl.ge, one_too_many]
  rw [h, List.drop_one, List.tail_cons]

/-! ### The entries that SPLITS READ carries (R98) -/

/-- Where sequences rise by one from `first`, the entries from a sequence on are those behind the ones before it. -/
theorem filter_from_seq {entries : List LogEntry} {first : Nat} (start : Nat)
    (h : entries.map LogEntry.seq = List.range' first entries.length) :
    entries.filter (fun e => decide (start ≤ e.seq)) = entries.drop (start - first) := by
  induction entries generalizing first with
  | nil => simp
  | cons e later ih =>
    rw [List.map_cons, List.length_cons, List.range'_succ, List.cons.injEq] at h
    obtain ⟨he, hlater⟩ := h
    by_cases hs : start ≤ first
    · have behind_none : start - first = 0 := by omega
      have later_behind_none : start - (first + 1) = 0 := by omega
      rw [List.filter_cons_of_pos (by simpa [he] using hs), ih hlater, behind_none, later_behind_none, List.drop_zero,
        List.drop_zero]
    · have behind_one_more : start - first = (start - (first + 1)) + 1 := by omega
      rw [List.filter_cons_of_neg (by simpa [he] using hs), ih hlater, behind_one_more, List.drop_succ_cons]

/-- The oldest retained sequence, counted back from the newest (R93). -/
theorem SplitLog.Ok.oldest_eq {l : SplitLog} (h : l.Ok) (hl : 0 < l.entries.length) :
    l.oldest = l.newest + 1 - l.entries.length := by
  obtain ⟨-, -, hseq⟩ := h
  obtain ⟨e, later, he⟩ := List.exists_cons_of_length_pos hl
  rw [he, List.map_cons, List.length_cons, List.range'_succ, List.cons.injEq] at hseq
  rw [oldest, he, List.length_cons]
  exact hseq.left

theorem SplitLog.Ok.oldest_le {l : SplitLog} (h : l.Ok) : l.oldest ≤ l.newest + 1 := by
  obtain hl | hl := Nat.eq_zero_or_pos l.entries.length
  · rw [oldest, List.length_eq_zero_iff.mp hl]
    exact Nat.zero_le _
  · rw [h.oldest_eq hl]
    exact Nat.sub_le _ _

theorem SplitLog.Ok.seq_from_oldest {l : SplitLog} (h : l.Ok) :
    l.entries.map LogEntry.seq = List.range' l.oldest l.entries.length := by
  obtain hl | hl := Nat.eq_zero_or_pos l.entries.length
  · rw [List.length_eq_zero_iff.mp hl]
    rfl
  · rw [h.oldest_eq hl]
    exact h.right.right

theorem SplitLog.Ok.carried_eq {l : SplitLog} (h : l.Ok) (start : Nat) :
    l.carried start = (l.entries.filter (fun e => decide (start ≤ e.seq))).take 16 := by
  rw [carried, filter_from_seq start h.seq_from_oldest]

/-! ### SPLITS READ: its checks (R98) -/

theorem splitsRead_out_of_range {start : Nat} (s : State) (h : start = 0 ∨ s.log.newest + 1 < start) :
    splitsRead start s = .error .range := if_pos h

theorem splitsRead_gone {start : Nat} (s : State) (h : 1 ≤ start) (h' : start ≤ s.log.newest + 1)
    (ho : start < s.log.oldest) : splitsRead start s = .error .gone := by
  rw [splitsRead, if_neg (by omega), if_pos ho]

theorem splitsRead_carries {start : Nat} (s : State) (h : 1 ≤ start) (h' : start ≤ s.log.newest + 1)
    (ho : s.log.oldest ≤ start) :
    splitsRead start s = .ok (s, le 4 s.log.oldest ++ le 4 s.log.newest ++ le 1 (s.log.carried start).length ++ le 1 0
      ++ (s.log.carried start).flatMap entryBytes) := by
  rw [splitsRead, if_neg (by omega), if_neg (Nat.not_lt.mpr ho)]

/-! ### The rows of SPLITS READ (R99, R201) -/

/-- The kind byte of an entry (R197). -/
def EntryKind.byte : EntryKind → Byte
  | .posted => 1#8 | .manual => 2#8 | .amended => 3#8 | .voided => 4#8 | .reinstated => 5#8

theorem EntryKind.le_code (k : EntryKind) : le 1 k.code = [k.byte] := by
  cases k <;> rfl

/-- The five figures of an entry: pass 0 and times of all ones where its kind has none (R199). -/
def figureFields : Option Figures → List Byte
  | some x => le 1 x.pass ++ le 4 x.time ++ le 4 x.gunSplit ++ le 4 x.chipSplit ++ le 4 x.pace
  | none => [0#8] ++ List.replicate 16 0xFF#8

theorem figureFields_eq (o : Option Figures) :
    le 1 ((o.map Figures.pass).getD 0) ++ leOpt 4 (o.map Figures.time) ++ leOpt 4 (o.map Figures.gunSplit)
      ++ leOpt 4 (o.map Figures.chipSplit) ++ leOpt 4 (o.map Figures.pace) = figureFields o := by
  cases o with
  | none => rfl
  | some x => rfl

theorem entryBytes_eq (e : LogEntry) :
    entryBytes e = le 4 e.seq ++ le 2 e.bib ++ [e.kind.byte] ++ figureFields e.figures ++ le 2 (e.place.getD 0)
      ++ le 1 (e.flags.byte false) ++ [0#8] := by
  rw [← figureFields_eq, ← EntryKind.le_code]
  simp only [entryBytes, List.append_assoc]
  rfl

/-! ### HOLDS READ (R74) -/

theorem holdsRead_out_of_range {start : Nat} (s : State) (h : 63 < start ∨ s.hold.list.length < start) :
    holdsRead start s = .error .range := if_pos h

theorem holdsRead_carries {start : Nat} (s : State) (h : start ≤ 63) (h' : start ≤ s.hold.list.length) :
    holdsRead start s = .ok (s, le 1 s.hold.list.length ++ le 1 (yesNo s.hold.holdOver) ++ le 1 s.hold.release.length
      ++ le 2 s.hold.timeout ++ le 1 ((s.hold.list.drop start).take 16).length ++ le 1 0
      ++ holdRows start ((s.hold.list.drop start).take 16)) :=
  if_neg (by omega)

/-- A yes/no code as a byte (R197). -/
theorem le_yesNo (b : Bool) : le 1 (yesNo b) = [if b then 1#8 else 0#8] := by
  cases b <;> rfl

/-- The reason byte of an entry with its bib and wave: 0 and FF where the reason has none (R199, R201). -/
def HoldReason.fields : HoldReason → List Byte
  | .unknownChip => [0#8, 0#8, 0#8, 0xFF#8]
  | .wave b w => [1#8] ++ le 2 b ++ le 1 w
  | .suspect b => [2#8] ++ le 2 b ++ [0xFF#8]

theorem HoldReason.fields_eq (r : HoldReason) :
    le 1 r.code ++ le 2 (r.bib?.getD 0) ++ le 1 (r.wave?.getD 0xFF) = r.fields := by
  cases r with
  | unknownChip | wave _ _ | suspect _ => rfl

/-- A feed code as a byte (R197). -/
def feedByte : Feed → Byte
  | .a => 0#8 | .b => 1#8

/-- A quality code as a byte (R197). -/
def qualityByte : Quality → Byte
  | .exact => 0#8 | .tracked => 1#8 | .holdover => 2#8 | .localRc => 3#8

theorem le_feed_code (x : Feed) : le 1 x.code = [feedByte x] := by
  cases x <;> rfl

theorem le_quality_code (q : Quality) : le 1 q.code = [qualityByte q] := by
  cases q <;> rfl

theorem holdBytes_eq (index : Nat) (e : HoldEntry) :
    holdBytes index e = le 4 e.chip ++ le 1 index ++ e.reason.fields ++ [feedByte e.feed] ++ [qualityByte e.quality]
      ++ le 1 e.count ++ le 4 e.time ++ le 6 e.enteredAt ++ [if e.releasing then 1#8 else 0#8, 0#8] := by
  rw [← HoldReason.fields_eq, ← le_feed_code, ← le_quality_code, ← List.singleton_append, ← le_yesNo]
  simp only [holdBytes, List.append_assoc]
  rfl

theorem holdRows_eq_flatMap (start : Nat) (carried : List HoldEntry) :
    holdRows start carried = (carried.zipIdx start).flatMap (fun x => holdBytes x.2 x.1) := by
  induction carried generalizing start with
  | nil => rfl
  | cons e rest ih => rw [holdRows, ih, List.zipIdx_cons, List.flatMap_cons]

/-! ### The statements -/

/-- Settles O26: the entries of `SplitLog.append` by the room in the log, and the form of the log that it keeps. -/
theorem logAppends : Obligations.LogAppends := by
  intro l kind bib figs place flags e m
  exact ⟨rfl, fun room => l.append_entries_of_room room kind bib figs place flags,
    fun _ _ h full => l.append_entries_of_full h full kind bib figs place flags,
    fun ok => ok.append kind bib figs place flags⟩

/-- Settles O27: the checks of the two reads in their order, and their rows field by field. -/
theorem listsAreRead : Obligations.ListsAreRead := by
  refine ⟨?_, ?_⟩
  · intro s f rest start ha hok hk hl u oldest carried code row
    have served : exec (.splitsRead .c) s = .next (answered .c f u (splitsRead start u)) :=
      serve_control splitsRead ha hk hl (by decide)
    have rows : entryBytes = row := funext entryBytes_eq
    have hcarried : u.log.carried start = carried := hok.carried_eq start
    refine ⟨fun h => ?_, fun h ho => ?_, fun h ho h' => ?_⟩
    · rw [served, answered_refused (splitsRead_out_of_range u h)]
    · have within : start ≤ u.log.newest + 1 := ho.le.trans hok.oldest_le
      rw [served, answered_refused (splitsRead_gone u h within ho)]
      rfl
    · rw [served, answered_accepted (splitsRead_carries u h h' ho), hcarried, rows]
      rfl
  · intro s f rest start ha hk hl u carried row
    have served : exec (.holdsRead .c) s = .next (answered .c f u (holdsRead start u)) :=
      serve_control holdsRead ha hk hl (by decide)
    have rows : (fun x : HoldEntry × Nat => holdBytes x.2 x.1) = fun x => row x.1 x.2 :=
      funext fun x => holdBytes_eq x.2 x.1
    refine ⟨fun h => ?_, fun h h' => ?_⟩
    · rw [served, answered_refused (holdsRead_out_of_range u h)]
    · rw [served, answered_accepted (holdsRead_carries u h h'), holdRows_eq_flatMap, rows, le_yesNo]
      rfl

end Sys2Proof.Machine
end

section
/-! SUPPORT. The board (O28 to O30): an offer by its lane and the room there, the quiet expiry, the page that PAGE composes and
the rotation it moves on, the three settings requests, and the statements about them. -/

namespace Sys2Proof.Machine

/-! ### An offer (R105-R107, R118) -/

theorem laneAdd_of_room {cap : Nat} {lane : List BoardPosting} (x : BoardPosting) (h : lane.length < cap) :
    laneAdd cap lane x = lane ++ [x] := by
  rw [laneAdd, if_neg (Nat.not_le.mpr h)]

theorem laneAdd_of_full {cap : Nat} {lane kept : List BoardPosting} {oldest : BoardPosting} (x : BoardPosting)
    (h : lane = oldest :: kept) (full : lane.length = cap) : laneAdd cap lane x = kept ++ [x] := by
  rw [laneAdd, if_pos full.ge, h, List.drop_one, List.tail_cons]

section Offer

variable {b : Board} {x : BoardPosting} (now : Nat)

theorem Board.offer_lead (h : x.place ≤ b.settings.leadDepth) :
    b.offer now x = { b with lastOffer := some now, lead := laneAdd leadCap b.lead x } := if_pos h

theorem Board.offer_feat (h : b.settings.leadDepth < x.place) (hf : x.flags.featured = true) :
    b.offer now x = { b with lastOffer := some now, feat := laneAdd featCap b.feat x } := by
  rw [offer, if_neg (Nat.not_le.mpr h), if_pos hf]

theorem Board.offer_flow (h : b.settings.leadDepth < x.place) (hf : x.flags.featured = false) :
    b.offer now x = { b with
      lastOffer := some now
      flow := laneAdd flowCap b.flow x
      banner := if flowCap ≤ b.flow.length then min 65535 (b.banner + 1) else b.banner } := by
  rw [offer, if_neg (Nat.not_le.mpr h), hf, if_neg Bool.false_ne_true]
  rfl

end Offer

/-! ### The quiet expiry (R118) -/

/-- While the part runs, a LIVE board's expiry is due by course time alone. -/
theorem quietDue_live {s : State} {t : Nat} (hh : s.held = false) (ht : s.board.lastOffer = some t) :
    quietDue s = decide (t + s.board.settings.quietInterval * 1000 ≤ s.now) := by
  rw [quietDue, hh, ht, Option.any_some, Bool.not_false, Bool.true_and]

/-! ### Eligible slots and the advance (R114) -/

/-- Whether a kind of page has anything to show: CLOCK always, another kind while its lane holds a posting. -/
def Board.supplies (b : Board) : SlotKind → Bool
  | .clock => true
  | .leaders => decide (b.lead ≠ [])
  | .featured => decide (b.feat ≠ [])
  | .flow => decide (b.flow ≠ [])

theorem not_isEmpty_eq_decide (lane : List BoardPosting) : (!lane.isEmpty) = decide (lane ≠ []) := by
  cases lane with
  | nil | cons _ _ => rfl

theorem Board.eligible_eq_supplies {b : Board} {i : Nat} {x : Slot} (h : b.rotation[i]? = some x) :
    b.eligible i = b.supplies x.kind := by
  rw [eligible, h, Option.map_some]
  cases x.kind with
  | clock => rfl
  | leaders | featured | flow => exact not_isEmpty_eq_decide _

section Advance

variable {b : Board}

theorem Board.advance_of_first {i : Nat} (hi : i < b.rotation.length)
    (he : b.eligible ((b.slot + 1 + i) % b.rotation.length) = true)
    (hbefore : ∀ j, j < i → b.eligible ((b.slot + 1 + j) % b.rotation.length) = false) :
    b.advance = { b with slot := (b.slot + 1 + i) % b.rotation.length, pageCount := 0 } := by
  have first : (List.range b.rotation.length).find? (b.eligible ∘ fun i => (b.slot + 1 + i) % b.rotation.length) = some i :=
    List.find?_range_eq_some.mpr ⟨he, List.mem_range.mpr hi, fun j hj => by simp [hbefore j hj]⟩
  rw [advance, slotsAfter, List.find?_map, first]
  rfl

theorem Board.advance_of_none
    (h : ∀ i, i < b.rotation.length → b.eligible ((b.slot + 1 + i) % b.rotation.length) = false) :
    b.advance = { b with pageCount := 0 } := by
  have none_found : b.slotsAfter.find? b.eligible = none := by
    rw [slotsAfter, List.find?_map, Option.map_eq_none_iff, List.find?_range_eq_none]
    intro i hi
    simp [h i hi]
  rw [advance, none_found, Option.getD_none]

end Advance

/-! ### The page of the rotation (R115, R116) -/

/-- The board once a page is composed from `c`: the page is counted, and at the hold count the rotation advances. -/
def Board.countPage (c : Board) (hold : Nat) : Board := { c with pageCount := c.pageCount + 1 }.closePage hold

section Rotation

variable {s : State}

/-- An eligible current slot gives the page of its kind. -/
theorem rotationPage_of_eligible {x : Slot} (h : s.board.rotation[s.board.slot]? = some x)
    (he : s.board.eligible s.board.slot = true) :
    rotationPage s = ((composeSlot x.kind s s.board).1.countPage x.hold, (composeSlot x.kind s s.board).2) := by
  rw [rotationPage, if_pos he, h, he]
  rfl

/-- A slot that is not eligible gives way to the one that an advance comes to, whose page is composed from the board
after the advance. -/
theorem rotationPage_of_advance (he : s.board.eligible s.board.slot = false)
    (ha : s.board.advance.eligible s.board.advance.slot = true) :
    rotationPage s = rotationPage { s with board := s.board.advance } := by
  rw [rotationPage, he, if_neg Bool.false_ne_true, rotationPage, if_pos ha]
  rfl

/-- Without an eligible slot the page is a CLOCK page that counts nothing. -/
theorem rotationPage_of_none (he : s.board.eligible s.board.slot = false)
    (ha : s.board.advance.eligible s.board.advance.slot = false) :
    rotationPage s = (s.board.advance, clockPage false s) := by
  rw [rotationPage, he, if_neg Bool.false_ne_true, ha]
  cases s.board.advance.rotation[s.board.advance.slot]? with
  | none | some x => rfl

end Rotation

/-! ### PAGE (R109, R119, R120) -/

section Page

variable {s : State}

theorem composePage_pattern (h : s.board.pattern ≠ 0) :
    composePage s = (s.board, [4#8, 0#8] ++ le 1 s.board.pattern) := if_pos h

theorem composePage_quiet (h : s.board.pattern = 0) (hq : s.board.lastOffer = none) :
    composePage s = (s.board, clockPage true s) := by
  rw [composePage, if_neg (not_not_intro h), hq]
  rfl

theorem composePage_live (h : s.board.pattern = 0) (hl : s.board.lastOffer.isSome = true) :
    composePage s = rotationPage s := by
  rw [composePage, if_neg (not_not_intro h), Option.isNone_eq_false_iff.mpr hl, if_neg Bool.false_ne_true]

theorem page_composes {b : Board} {bytes : List Byte} (h : composePage s = (b, bytes)) :
    page () s = .ok ({ s with board := b }, bytes) := by
  rw [page, h]

end Page

/-- Port D takes a PAGE to the board. -/
theorem execPage_of_asks {s : State} {f : Frame} {rest : List Frame} (h : s.Asks .d f rest) (hk : f.kind = Kind.page)
    (hl : f.payload = []) :
    exec (.page .d) s = .next (answered .d f (s.taken .d rest) (page () (s.taken .d rest))) := by
  have role : Kind.taken Port.d.role f.kind = true := by
    rw [hk]
    decide
  exact serve_acts page h (beq_iff_eq.mpr hk) (if_pos hl) role

/-! ### The CLOCK page (R112, R113) -/

/-- The quality and the code of the current source, as a CLOCK page ends (R135, R197). -/
def sourceFields : Source → List Byte
  | .sync => [0#8, 0#8] | .beacon => [1#8, 1#8] | .xo => [2#8, 2#8] | .rc => [3#8, 3#8]

theorem sourceFields_eq (x : Source) : le 1 x.quality.code ++ le 1 x.code = sourceFields x := by
  cases x <;> rfl

theorem clockPage_eq (dim : Bool) (s : State) :
    clockPage dim s = [3#8, if dim then 1#8 else 0#8] ++ raceTimeField s.raceNow? ++ sourceFields s.clock.current := by
  rw [clockPage, le_yesNo, List.append_assoc, State.quality, sourceFields_eq]
  rfl

theorem raceTimeField_of_lt {t : Nat} (h : t < 4294967296) : raceTimeField (some t) = le 4 t := if_pos h

theorem raceTimeField_exists (t : Nat) : ∃ n, raceTimeField (some t) = le 4 n := by
  by_cases h : t < 4294967296
  · exact ⟨t, if_pos h⟩
  · exact ⟨Config.wideRaceTime t, if_neg h⟩

/-! ### BOARD SET (R121) -/

/-- The ranges of the board settings, written out. -/
theorem boardOk_iff {x : BoardSettings} : BoardOk x = true ↔
    (4 ≤ x.rows ∧ x.rows ≤ 12) ∧ (1 ≤ x.dwellLead ∧ x.dwellLead ≤ 20) ∧ (1 ≤ x.dwellFeat ∧ x.dwellFeat ≤ 20) ∧
      (1 ≤ x.dwellFlow ∧ x.dwellFlow ≤ 20) ∧ (1 ≤ x.leadDepth ∧ x.leadDepth ≤ 10) ∧
      (10 ≤ x.quietInterval ∧ x.quietInterval ≤ 600) := by
  simp only [BoardOk, Bool.and_eq_true, decide_eq_true_eq, and_assoc]

theorem boardSet_out_of_range {x : BoardSettings} (s : State) (h : ¬ BoardOk x = true) : boardSet x s = .error .range :=
  if_neg h

theorem boardSet_in_range {x : BoardSettings} (s : State) (h : BoardOk x = true) :
    boardSet x s = .ok ({ s with board := { s.board with settings := x } }, boardBytes x) := if_pos h

/-! ### ROTATION SET (R117) -/

/-- A slot as sent is in range. -/
def SlotInRange (e : Nat × Nat) : Prop := e.1 ≤ 3 ∧ 1 ≤ e.2

/-- The page kind of a code in range (R197). -/
def pageKind : Nat → SlotKind
  | 0 => .leaders | 1 => .featured | 2 => .flow | _ => .clock

/-- The slot that an entry in range names. -/
def sentSlot (e : Nat × Nat) : Slot := ⟨pageKind e.1, e.2⟩

theorem SlotKind.ofCode?_of_le {n : Nat} (h : n ≤ 3) : SlotKind.ofCode? n = some (pageKind n) := by
  match n, h with
  | 0, _ | 1, _ | 2, _ | 3, _ => rfl

theorem SlotKind.ofCode?_of_gt {n : Nat} (h : 3 < n) : SlotKind.ofCode? n = none := by
  match n, h with
  | _ + 4, _ => rfl

theorem pageKind_code {n : Nat} (h : n ≤ 3) : (pageKind n).code = n := by
  match n, h with
  | 0, _ | 1, _ | 2, _ | 3, _ => rfl

theorem slotOf_in_range {e : Nat × Nat} (h : SlotInRange e) : slotOf e = some (sentSlot e) := by
  obtain ⟨hkind, hhold⟩ := h
  rw [slotOf, if_neg (Nat.one_le_iff_ne_zero.mp hhold), SlotKind.ofCode?_of_le hkind, Option.map_some]
  rfl

theorem slotOf_out_of_range {e : Nat × Nat} (h : ¬ SlotInRange e) : slotOf e = none := by
  by_cases hhold : e.2 = 0
  · exact if_pos hhold
  · have no_kind : 3 < e.1 := Nat.lt_of_not_le fun hkind => h ⟨hkind, Nat.one_le_iff_ne_zero.mpr hhold⟩
    rw [slotOf, if_neg hhold, SlotKind.ofCode?_of_gt no_kind, Option.map_none]

theorem Layout.allSome_map_some {α β : Type} {g : α → Option β} {v : α → β} {l : List α} (h : ∀ a ∈ l, g a = some (v a)) :
    allSome (l.map g) = some (l.map v) := by
  induction l with
  | nil => rfl
  | cons a l ih =>
    obtain ⟨ha, hl⟩ := List.forall_mem_cons.mp h
    simp only [List.map_cons, ha, allSome, ih hl]

theorem Layout.allSome_of_none_mem {α : Type} {l : List (Option α)} (h : none ∈ l) : allSome l = none := by
  induction l with
  | nil => cases h
  | cons a l ih =>
    cases a with
    | none => rfl
    | some a =>
      have later : none ∈ l := List.mem_of_ne_of_mem (Option.some_ne_none a).symm h
      simp only [allSome, ih later]

theorem rotationSet_bad_length {sent : List (Nat × Nat)} (s : State) (h : sent.length = 0 ∨ 8 < sent.length) :
    rotationSet sent s = .error .range := if_pos h

theorem rotationSet_bad_slot {sent : List (Nat × Nat)} {e : Nat × Nat} (s : State) (he : e ∈ sent) (hr : ¬ SlotInRange e) :
    rotationSet sent s = .error .range := by
  have absent : Layout.allSome (sent.map slotOf) = none :=
    Layout.allSome_of_none_mem (List.mem_map.mpr ⟨e, he, slotOf_out_of_range hr⟩)
  rw [rotationSet, absent, ite_self]

theorem rotationSet_in_range {sent : List (Nat × Nat)} (s : State) (h : 1 ≤ sent.length) (h' : sent.length ≤ 8)
    (hr : ∀ e ∈ sent, SlotInRange e) :
    rotationSet sent s =
      .ok ({ s with board := { s.board with rotation := sent.map sentSlot, slot := 0, pageCount := 0 } },
        rotationBytes (sent.map sentSlot)) := by
  rw [rotationSet, if_neg (by omega), Layout.allSome_map_some fun e he => slotOf_in_range (hr e he)]

/-- The echo of a list in range is the list as sent. -/
theorem rotationBytes_sentSlot {sent : List (Nat × Nat)} (h : ∀ e ∈ sent, SlotInRange e) :
    rotationBytes (sent.map sentSlot) = le 1 sent.length ++ [0#8] ++ sent.flatMap (fun e => le 1 e.1 ++ le 1 e.2) := by
  have same_item : ∀ e ∈ sent, le 1 (sentSlot e).kind.code ++ le 1 (sentSlot e).hold = le 1 e.1 ++ le 1 e.2 := by
    intro e he
    rw [sentSlot, pageKind_code (h e he).left]
  rw [rotationBytes, List.length_map, List.flatMap_map, List.flatMap_congr same_item]
  rfl

/-! ### PATTERN SET (R120) -/

theorem patternSet_out_of_range {n : Nat} (s : State) (h : 7 < n) : patternSet n s = .error .range := if_pos h

theorem patternSet_in_range {n : Nat} (s : State) (h : n ≤ 7) :
    patternSet n s = .ok ({ s with board := { s.board with pattern := n } }, le 1 n) := if_neg (Nat.not_lt.mpr h)

/-! ### The statements -/

/-- Settles O28: the three lanes of `Board.offer`, each with room and full, and the expiry by whether `quietDue`. -/
theorem offersAndQuiet : Obligations.OffersAndQuiet := by
  refine ⟨fun b now x => ?_, fun s t hh ht => ?_⟩
  · intro live
    refine ⟨fun hp => ?_, fun hp hf => ?_, fun hp hf => ?_⟩
    · rw [Board.offer_lead now hp]
      refine ⟨fun room => ?_, fun o kept hlane full => ?_⟩
      · rw [laneAdd_of_room (cap := leadCap) x room]
      · rw [laneAdd_of_full (cap := leadCap) x hlane full]
    · rw [Board.offer_feat now hp hf]
      refine ⟨fun room => ?_, fun o kept hlane full => ?_⟩
      · rw [laneAdd_of_room (cap := featCap) x room]
      · rw [laneAdd_of_full (cap := featCap) x hlane full]
    · rw [Board.offer_flow now hp hf]
      refine ⟨fun room => ?_, fun o kept hlane full => ?_⟩
      · have not_full : ¬ flowCap ≤ b.flow.length := Nat.not_le.mpr room
        rw [laneAdd_of_room (cap := flowCap) x room, if_neg not_full]
      · have overflows : flowCap ≤ b.flow.length := full.ge
        rw [laneAdd_of_full (cap := flowCap) x hlane full, if_pos overflows]
  · have due := quietDue_live hh ht
    refine ⟨fun h => ?_, fun h => ?_⟩
    · exact if_pos (due.trans (decide_eq_true h))
    · exact if_neg (Bool.eq_false_iff.mp (due.trans (decide_eq_false (Nat.not_le.mpr h))))

/-- Settles O29: the three pages of `composePage`; a rotation page by whether the current slot, or the one an advance comes to,
is eligible; the advance as a search; the CLOCK page field by field. -/
theorem pagesAreComposed : Obligations.PagesAreComposed := by
  refine ⟨fun s f rest ha hk hl => ?_, fun s k hold hslot => ?_, fun s x hslot => ?_, fun s dim => ?_,
    fun b i x h => ?_⟩
  · intro u
    have served : exec (.page .d) s = .next (answered .d f u (page () u)) := execPage_of_asks ha hk hl
    rw [served]
    refine ⟨fun h => ?_, fun h hq => ?_, fun h hlive => ?_⟩
    · rw [answered_accepted (page_composes (composePage_pattern (s := u) h))]
      rfl
    · rw [answered_accepted (page_composes (composePage_quiet (s := u) h hq))]
      rfl
    · rw [answered_accepted (page_composes (composePage_live (s := u) h hlive))]
      rfl
  · intro b closed after row rows
    have composed (h : b.supplies k = true) :
        rotationPage s = ((composeSlot k s b).1.countPage hold, (composeSlot k s b).2) :=
      rotationPage_of_eligible hslot ((Board.eligible_eq_supplies hslot).trans h)
    refine ⟨?_, ?_, ?_, ?_⟩
    · rintro rfl h
      exact composed (decide_eq_true h)
    · rintro rfl h
      exact composed (decide_eq_true h)
    · rintro rfl h
      exact composed (decide_eq_true h)
    · rintro rfl
      exact composed rfl
  · intro b n
    exact ⟨fun _ hi he hbefore => Board.advance_of_first hi he hbefore, Board.advance_of_none,
      rotationPage_of_advance, rotationPage_of_none⟩
  · intro head tail
    have page_eq : clockPage dim s = head ++ raceTimeField s.raceNow? ++ tail := clockPage_eq dim s
    rw [page_eq]
    refine ⟨fun he => ?_, fun e he h => ?_, fun e he => ?_⟩
    · rw [State.raceNow?_unset he]
      rfl
    · rw [State.raceNow?_running he, raceTimeField_of_lt h]
    · obtain ⟨n, hn⟩ := raceTimeField_exists (s.now - e)
      exact ⟨n, by rw [State.raceNow?_running he, hn]⟩
  · exact Board.eligible_eq_supplies h

/-- Settles O30: each request by its range check, and what it replaces and echoes. -/
theorem boardRequestsTaken : Obligations.BoardRequestsTaken := by
  intro s f rest ha u
  refine ⟨fun x hk hl => ?_, fun sent hk hl => ?_, fun n hk hl => ?_⟩
  · intro ok
    have served : exec (.boardSet .c) s = .next (answered .c f u (boardSet x u)) :=
      serve_control boardSet ha hk hl (by decide)
    have hrange : ok ↔ BoardOk x = true := boardOk_iff.symm
    rw [served, hrange]
    refine ⟨fun h => ?_, fun h => ?_⟩
    · rw [answered_refused (boardSet_out_of_range u h)]
    · rw [answered_accepted (boardSet_in_range u h)]
      rfl
  · intro ok slots
    have served : exec (.rotationSet .c) s = .next (answered .c f u (rotationSet sent u)) :=
      serve_control rotationSet ha hk hl (by decide)
    rw [served]
    refine ⟨fun h => ?_, fun ⟨h1, h8, hr⟩ => ?_⟩
    · have refused : rotationSet sent u = .error .range := by
        by_cases hlen : sent.length = 0 ∨ 8 < sent.length
        · exact rotationSet_bad_length u hlen
        · have bad_slot : ¬ ∀ e ∈ sent, SlotInRange e := fun hr => h ⟨by omega, by omega, hr⟩
          obtain ⟨e, he, hbad⟩ : ∃ e ∈ sent, ¬ SlotInRange e := by
            simpa only [not_forall, exists_prop] using bad_slot
          exact rotationSet_bad_slot u he hbad
      rw [answered_refused refused]
    · rw [answered_accepted (rotationSet_in_range u h1 h8 hr), rotationBytes_sentSlot hr]
      rfl
  · have served : exec (.patternSet .c) s = .next (answered .c f u (patternSet n u)) :=
      serve_control patternSet ha hk hl (by decide)
    rw [served]
    refine ⟨fun h => ?_, fun h => ?_⟩
    · rw [answered_refused (patternSet_out_of_range u h)]
    · rw [answered_accepted (patternSet_in_range u h)]
      rfl

end Sys2Proof.Machine
end

section
/-! SUPPORT. The race clock (O9, O31, O33): what TIME answers, GUN SET in each case of its checks, a period of SYNC or BEACON row by
row of the table of R132, and the statements about them. -/

namespace Sys2Proof.Machine

/-! ### TIME (R145) -/

/-- A request of every role is taken by each of them (R183). -/
theorem Kind.taken_of_ofAll {k : Byte} (h : Kind.ofAll.contains k = true) (role : Role) : Kind.taken role k = true := by
  rw [Kind.taken.eq_def, h, Bool.true_or]

/-- Any port answers TIME from the state in which it took the request. -/
theorem execTime_of_asks {s : State} {p : Port} {f : Frame} {rest : List Frame} (h : s.Asks p f rest)
    (hk : f.kind = Kind.time) (hl : f.payload = []) :
    exec (.time p) s = .next ((s.taken p rest).ack p f (timeResults (s.taken p rest))) := by
  have role : Kind.taken p.role f.kind = true := by
    rw [hk]
    exact Kind.taken_of_ofAll (by decide) p.role
  exact serve_acts (fun _ u => .ok (u, timeResults u)) h (beq_iff_eq.mpr hk) (if_pos hl) role

theorem timeResults_eq (s : State) :
    timeResults s = raceTimeField s.raceNow? ++ (le 6 s.now ++ sourceFields s.clock.current) := by
  rw [timeResults, State.quality, List.append_assoc, List.append_assoc, sourceFields_eq]

/-! ### GUN SET (R129) -/

section Gun

variable {given : Option Nat} (s : State)

theorem gunSet_out_of_range (h : 600000 < given.getD 0 ∨ s.now < given.getD 0) : gunSet given s = .error .range := if_pos h

/-- In range the gun is refused exactly while the race clock is RUNNING. -/
theorem gunSet_in_range (h : given.getD 0 ≤ 600000) (h' : given.getD 0 ≤ s.now) :
    gunSet given s =
      if s.clock.epoch.isSome then .error .state
      else .ok ({ s with clock := { s.clock with epoch := some (s.now - given.getD 0) } },
        le 6 (s.now - given.getD 0) ++ le 4 (given.getD 0)) :=
  if_neg (not_or.mpr ⟨Nat.not_lt.mpr h, Nat.not_lt.mpr h'⟩)

theorem gunSet_running (h : given.getD 0 ≤ 600000) (h' : given.getD 0 ≤ s.now) (he : s.clock.epoch.isSome = true) :
    gunSet given s = .error .state :=
  (gunSet_in_range s h h').trans (if_pos he)

theorem gunSet_unset (h : given.getD 0 ≤ 600000) (h' : given.getD 0 ≤ s.now) (he : s.clock.epoch = none) :
    gunSet given s = .ok ({ s with clock := { s.clock with epoch := some (s.now - given.getD 0) } },
      le 6 (s.now - given.getD 0) ++ le 4 (given.getD 0)) :=
  (gunSet_in_range s h h').trans (if_neg (Option.not_isSome_iff_eq_none.mpr he))

end Gun

/-! ### The table of R132 -/

section Periods

variable {x : RefState}

theorem RefState.judge_starting_good (h : x.state = .starting) (hc : x.count + 1 < 16) :
    x.judge true = { x with count := x.count + 1 } := by
  rw [judge.eq_def, h]
  exact if_neg (Nat.not_le.mpr hc)

theorem RefState.judge_starting_qualifies (h : x.state = .starting) (hc : 16 ≤ x.count + 1) :
    x.judge true = { x with state := .qualified, count := 0, misses := 0 } := by
  rw [judge.eq_def, h]
  exact if_pos hc

theorem RefState.judge_starting_bad (h : x.state = .starting) : x.judge false = { x with count := 0 } := by
  rw [judge.eq_def, h]

theorem RefState.judge_qualified_good (h : x.state = .qualified) : x.judge true = { x with misses := 0 } := by
  rw [judge.eq_def, h]

theorem RefState.judge_qualified_misses (h : x.state = .qualified) (hm : x.misses + 1 < 3) :
    x.judge false = { x with misses := x.misses + 1 } := by
  rw [judge.eq_def, h]
  exact if_neg (Nat.not_le.mpr hm)

theorem RefState.judge_qualified_fails (h : x.state = .qualified) (hm : 3 ≤ x.misses + 1) :
    x.judge false = { x with state := .failed, misses := 0 } := by
  rw [judge.eq_def, h]
  exact if_pos hm

theorem RefState.judge_failed_good (h : x.state = .failed) : x.judge true = { x with state := .starting, count := 1 } := by
  rw [judge.eq_def, h]

theorem RefState.judge_failed_bad (h : x.state = .failed) : x.judge false = x := by
  rw [judge.eq_def, h]

end Periods

/-! ### A period of a source -/

theorem Timebase.setRef_ref (c : Timebase) (r : Reference) : c.setRef r (c.ref r) = c := by
  cases r with
  | sync | beacon => rfl

section JudgeRef

variable {s : State} {r : Reference} {good : Bool} {y : RefState}

/-- A period that does not take a QUALIFIED source to FAILED moves the source and does nothing else. -/
theorem judgeRef_moves (hy : (s.clock.ref r).judge good = y) (kept : (s.clock.ref r).state = .qualified → y.state ≠ .failed) :
    judgeRef r good s = { s with clock := s.clock.setRef r y } := by
  subst hy
  exact if_neg (not_and.mpr kept)

/-- A period that takes a QUALIFIED source to FAILED is that source's failure. -/
theorem judgeRef_fails (hy : (s.clock.ref r).judge good = y) (was : (s.clock.ref r).state = .qualified)
    (failed : y.state = .failed) :
    judgeRef r good s = sourceFailed r.source { s with clock := s.clock.setRef r y } := by
  subst hy
  exact if_pos ⟨was, failed⟩

end JudgeRef

/-! ### The statements -/

/-- Settles O9: the answer is `timeResults`, whose first field goes by whether the race clock is UNSET and by 2^32 ms. -/
theorem timeTaken : Obligations.TimeTaken := by
  intro s p f rest ha hk hl tail
  have answer_eq : exec (.time p) s = .next ((s.taken p rest).ack p f (raceTimeField s.raceNow? ++ tail)) := by
    rw [execTime_of_asks ha hk hl, timeResults_eq]
    rfl
  rw [answer_eq]
  refine ⟨fun he => ?_, fun e he h => ?_, fun e he _ => ?_⟩
  · rw [State.raceNow?_unset he]
    rfl
  · rw [State.raceNow?_running he, raceTimeField_of_lt h]
  · obtain ⟨n, hn⟩ := raceTimeField_exists (s.now - e)
    exact ⟨n, by rw [State.raceNow?_running he, hn]⟩

/-- Settles O31: the checks of `gunSet` in their order, and the epoch it sets. -/
theorem gunSetTaken : Obligations.GunSetTaken := by
  intro s f rest given ha hk hl u off
  have served : exec (.gunSet .c) s = .next (answered .c f u (gunSet given u)) :=
    serve_control gunSet ha hk hl (by decide)
  rw [served]
  refine ⟨fun h => ?_, fun h h' he => ?_, fun h h' he => ?_⟩
  · rw [answered_refused (gunSet_out_of_range u h)]
  · rw [answered_refused (gunSet_running u h h' he)]
  · rw [answered_accepted (gunSet_unset u h h' he)]
    rfl

/-- Settles O33: the rows of `RefState.judge`, of which only the third miss of a QUALIFIED source is a failure. -/
theorem periodsMoveTheState : Obligations.PeriodsMoveTheState := by
  intro s r x moved
  have never_qualified {st : SourceState} {P : Prop} (h : x.state = st) (hn : st ≠ .qualified) : x.state = .qualified → P :=
    fun hq => absurd (h.symm.trans hq) hn
  have stays_qualified {y : RefState} (h : y.state = .qualified) : x.state = .qualified → y.state ≠ .failed :=
    fun _ hf => absurd (h.symm.trans hf) (by decide)
  refine ⟨fun h hc => ?starting_good, fun h hc => ?starting_qualifies, fun h => ?starting_bad, fun h => ?qualified_good,
    fun h hm => ?qualified_misses, fun h hm => ?qualified_fails, fun h => ?failed_good, fun h => ?failed_bad⟩
  case starting_good => exact judgeRef_moves (RefState.judge_starting_good h hc) (never_qualified h (by decide))
  case starting_qualifies => exact judgeRef_moves (RefState.judge_starting_qualifies h hc) (never_qualified h (by decide))
  case starting_bad => exact judgeRef_moves (RefState.judge_starting_bad h) (never_qualified h (by decide))
  case qualified_good => exact judgeRef_moves (RefState.judge_qualified_good h) (stays_qualified h)
  case qualified_misses => exact judgeRef_moves (RefState.judge_qualified_misses h hm) (stays_qualified h)
  case qualified_fails => exact judgeRef_fails (RefState.judge_qualified_fails h hm) h rfl
  case failed_good => exact judgeRef_moves (RefState.judge_failed_good h) (never_qualified h (by decide))
  case failed_bad =>
    rw [judgeRef_moves (RefState.judge_failed_bad h) (never_qualified h (by decide)), Timebase.setRef_ref]

end Sys2Proof.Machine
end

section
/-! SUPPORT. Corrections (O40): the checks that WITHDRAW and REINSTATE share, what each of them does once they are passed, and the
statement about them. -/

namespace Sys2Proof.Machine

/-! ### The checks of a correction (R148, R152) -/

/-- The checks that WITHDRAW and REINSTATE share, in their order, before what the accepted request comes to: the bib in range,
its record in the state the request takes, the log not closed to corrections. -/
def checkedCorrection (bib : Nat) (wanted : RunnerState) (s : State) (accepted : Reply) : Reply :=
  if !bibOk bib then .error .range
  else if (s.dir.record bib).fields.state ≠ wanted then .error .state
  else if s.log.closed then .error .full
  else accepted

section Checks

variable {bib : Nat} {wanted : RunnerState} {s : State} (accepted : Reply)

theorem checkedCorrection_out_of_range (h : ¬ (1 ≤ bib ∧ bib ≤ 60000)) :
    checkedCorrection bib wanted s accepted = .error .range :=
  if_pos (by rwa [Bool.not_eq_true', ← Bool.not_eq_true, bibOk_iff])

/-- In range the correction is refused by the record's state and then by the log. -/
theorem checkedCorrection_in_range (h : 1 ≤ bib ∧ bib ≤ 60000) :
    checkedCorrection bib wanted s accepted =
      if (s.dir.record bib).fields.state ≠ wanted then .error .state
      else if s.log.closed then .error .full
      else accepted :=
  if_neg (by rw [bibOk_iff.mpr h]; decide)

theorem checkedCorrection_wrong_state (h : 1 ≤ bib ∧ bib ≤ 60000) (hs : (s.dir.record bib).fields.state ≠ wanted) :
    checkedCorrection bib wanted s accepted = .error .state :=
  (checkedCorrection_in_range accepted h).trans (if_pos hs)

theorem checkedCorrection_right_state (h : 1 ≤ bib ∧ bib ≤ 60000) (hs : (s.dir.record bib).fields.state = wanted) :
    checkedCorrection bib wanted s accepted = if s.log.closed then .error .full else accepted :=
  (checkedCorrection_in_range accepted h).trans (if_neg (not_not_intro hs))

theorem SplitLog.closed_iff {l : SplitLog} : l.closed = true ↔ 4294847295 ≤ l.newest := decide_eq_true_iff

theorem checkedCorrection_log_closed (h : 1 ≤ bib ∧ bib ≤ 60000) (hs : (s.dir.record bib).fields.state = wanted)
    (hc : 4294847295 ≤ s.log.newest) : checkedCorrection bib wanted s accepted = .error .full :=
  (checkedCorrection_right_state accepted h hs).trans (if_pos (SplitLog.closed_iff.mpr hc))

theorem checkedCorrection_passed (h : 1 ≤ bib ∧ bib ≤ 60000) (hs : (s.dir.record bib).fields.state = wanted)
    (hc : s.log.newest < 4294847295) : checkedCorrection bib wanted s accepted = accepted :=
  (checkedCorrection_right_state accepted h hs).trans (if_neg (SplitLog.closed_iff.not.mpr (Nat.not_le.mpr hc)))

/-- A request on port C that comes to the checks of a correction is refused or accepted by them. -/
theorem correction_answered {result : Result} {f : Frame} {t : State} {x : List Byte}
    (served : result = .next (answered .c f s (checkedCorrection bib wanted s (.ok (t, x))))) :
    (¬ (1 ≤ bib ∧ bib ≤ 60000) → result = .next (s.refuse .c f .range)) ∧
    (1 ≤ bib ∧ bib ≤ 60000 → (s.dir.record bib).fields.state ≠ wanted → result = .next (s.refuse .c f .state)) ∧
    (1 ≤ bib ∧ bib ≤ 60000 → (s.dir.record bib).fields.state = wanted → 4294847295 ≤ s.log.newest →
      result = .next (s.refuse .c f .full)) ∧
    (1 ≤ bib ∧ bib ≤ 60000 → (s.dir.record bib).fields.state = wanted → s.log.newest < 4294847295 →
      result = .next (t.ack .c f x)) := by
  subst served
  refine ⟨fun h => ?range, fun h hs => ?state, fun h hs hc => ?full, fun h hs hc => ?accepted⟩
  case range => rw [answered_refused (checkedCorrection_out_of_range _ h)]
  case state => rw [answered_refused (checkedCorrection_wrong_state _ h hs)]
  case full => rw [answered_refused (checkedCorrection_log_closed _ h hs hc)]
  case accepted => rw [answered_accepted (checkedCorrection_passed _ h hs hc)]

end Checks

/-! ### What an accepted correction does (R149, R152) -/

/-- What an accepted WITHDRAW leaves, and its results. -/
def acceptWithdraw (bib : Nat) (s : State) : State × List Byte :=
  ({ s with
      dir := s.dir.setRunnerState bib .withdrawn
      engine := s.engine.free bib
      log := s.log.append .voided bib none none SplitFlags.clear
      board := s.board.withdraw bib },
    le 4 (s.log.newest + 1) ++ le 1 (yesNo (s.engine.find? bib).isSome) ++ le 1 (s.board.postingsOf bib))

/-- What an accepted REINSTATE leaves, and its results. -/
def acceptReinstate (bib : Nat) (s : State) : State × List Byte :=
  ({ s with
      dir := s.dir.setRunnerState bib .entered
      log := s.log.append .reinstated bib none none SplitFlags.clear },
    le 4 (s.log.newest + 1) ++ le 1 (s.dir.record bib).fields.made)

theorem withdraw_eq (bib : Nat) (s : State) :
    withdraw bib s = checkedCorrection bib .entered s (.ok (acceptWithdraw bib s)) := rfl

theorem reinstate_eq (bib : Nat) (s : State) :
    reinstate bib s = checkedCorrection bib .withdrawn s (.ok (acceptReinstate bib s)) := rfl

theorem Engine.find?_isSome {e : Engine} {bib : Nat} : (e.find? bib).isSome = true ↔ ∃ c ∈ e.crossings, c.bib = bib := by
  simp [Engine.find?]

/-- The byte of WITHDRAW's answer that says whether a crossing was voided. -/
theorem le_voided (e : Engine) (bib : Nat) :
    le 1 (yesNo (e.find? bib).isSome) = [if ∃ c ∈ e.crossings, c.bib = bib then 1#8 else 0#8] := by
  rw [le_yesNo]
  exact congrArg (fun b => [b]) (if_congr Engine.find?_isSome rfl rfl)

/-- The postings of a bib, counted lane by lane. -/
theorem Board.postingsOf_eq (b : Board) (bib : Nat) :
    b.postingsOf bib = b.lead.countP (fun x => x.bib == bib) + b.feat.countP (fun x => x.bib == bib)
      + b.flow.countP (fun x => x.bib == bib) := by
  rw [postingsOf, ← List.countP_eq_length_filter, List.countP_append, List.countP_append]

/-! ### The statement -/

/-- Settles O40: both requests come to `checkedCorrection` of what they do when accepted, so its refusals are theirs; what is left
of WITHDRAW is to count the voided crossing and the removed postings as its answer carries them. -/
theorem withdrawAndReinstateTaken : Obligations.WithdrawAndReinstateTaken := by
  refine ⟨fun s f rest bib ha hk hl => ?withdraw, fun s f rest bib ha hk hl => ?reinstate⟩
  case withdraw =>
    intro u r kept removed refused inRange
    have served : exec (.withdraw .c) s = .next (answered .c f u (withdraw bib u)) :=
      serve_control withdraw ha hk hl (by decide)
    have removed_eq : s.board.postingsOf bib = removed := s.board.postingsOf_eq bib
    obtain ⟨range, state, full, accepted⟩ := correction_answered (withdraw_eq bib u ▸ served)
    refine ⟨range, state, full, fun h hs hc => (accepted h hs hc).trans ?_⟩
    rw [← le_voided, ← removed_eq]
    rfl
  case reinstate =>
    intro u r refused inRange
    have served : exec (.reinstate .c) s = .next (answered .c f u (reinstate bib u)) :=
      serve_control reinstate ha hk hl (by decide)
    exact correction_answered (reinstate_eq bib u ▸ served)

end Sys2Proof.Machine
end

section
/-! SUPPORT. Faults, integrity and status (O43 to O45): an occurrence of a fault by what the record holds, FAULT CLEAR and
INTEGRITY SET in each case of their checks, the fields of FAULT READ's and STATUS READ's answers, and the statements about them. -/

namespace Sys2Proof.Machine

/-! ### An occurrence of a fault (R161-R163) -/

/-- A capture announces the kind with the count of the item just written. -/
theorem capture_put (set : FaultSet) (k : FaultKind) (item : FaultItem) (time detail : Nat) (s : State) :
    capture (set.put k item) ⟨k, time, detail⟩ s =
      State.notice { s with faults := { s.faults with record := some ⟨k, time, detail⟩, set := set.put k item } }
        Kind.faultNotice ([0#8] ++ le 1 k.code ++ le 6 time ++ le 4 detail ++ le 1 item.count
          ++ le 1 (set.put k item).pendingByte) := by
  rw [capture, ordinaryNotice, FaultSet.get_put_same]
  rfl

section Occurrence

variable {s : State} {r : FaultRecord} {k : FaultKind} (detail : Nat)

/-- A kind that is held, or pending already, is counted alone. -/
theorem raiseFault_known (hr : s.faults.record = some r) (h : r.kind = k ∨ (s.faults.set.get k).pending = true) :
    raiseFault k detail s = { s with faults := { s.faults with
      set := s.faults.set.put k { s.faults.set.get k with count := satAdd 255 1 (s.faults.set.get k).count } } } := by
  simp only [raiseFault, hr, if_pos h]

/-- Any other kind becomes pending while the record is held. -/
theorem raiseFault_waits (hr : s.faults.record = some r) (hk : r.kind ≠ k) (hp : (s.faults.set.get k).pending = false) :
    raiseFault k detail s = { s with faults := { s.faults with
      set := s.faults.set.put k ⟨satAdd 255 1 (s.faults.set.get k).count, true, some (s.now, detail)⟩ } } := by
  have h : ¬ (r.kind = k ∨ (s.faults.set.get k).pending = true) := by simp [hk, hp]
  simp only [raiseFault, hr, if_neg h]

end Occurrence

/-! ### The pending set's byte (R197) -/

/-- A flag below the doubled rest of a byte is that byte's lowest bit. -/
theorem yesNo_add_double (b : Bool) (n : Nat) : yesNo b + 2 * n = Nat.bit b n := by
  cases b <;> simp [yesNo, Nat.bit, Nat.add_comm]

theorem FaultSet.pendingByte_eq_bits (set : FaultSet) :
    set.pendingByte = Nat.bit set.setup.pending (Nat.bit set.timebase.pending (Nat.bit set.crossingFull.pending
      (Nat.bit set.holdFull.pending (Nat.bit set.feed.pending 0)))) := by
  simp only [pendingByte, ← yesNo_add_double]
  omega

theorem FaultSet.pendingByte_lt (set : FaultSet) : set.pendingByte < 32 := by
  have setup := yesNo_lt set.setup.pending
  have timebase := yesNo_lt set.timebase.pending
  have crossingFull := yesNo_lt set.crossingFull.pending
  have holdFull := yesNo_lt set.holdFull.pending
  have feed := yesNo_lt set.feed.pending
  unfold pendingByte
  omega

/-! ### The fault record emptied (R165) -/

section Release

variable {s : State}

theorem releaseRecord_of_none_pending (h : ∀ j ∈ faultKinds, (s.faults.set.get j).pending = false) :
    releaseRecord s = { s with faults := { s.faults with record := none } } := by
  have none_pending : s.faults.set.firstPending = none := List.find?_eq_none.mpr (by simpa using h)
  simp only [releaseRecord, none_pending]

/-- The pending kind before which none is pending is captured with its first time and detail. -/
theorem releaseRecord_of_pending {higher lower : List FaultKind} {next : FaultKind} {time detail : Nat}
    (hkinds : faultKinds = higher ++ next :: lower) (hhigher : ∀ j ∈ higher, (s.faults.set.get j).pending = false)
    (hnext : (s.faults.set.get next).pending = true) (hfirst : (s.faults.set.get next).first = some (time, detail)) :
    releaseRecord s = capture (s.faults.set.put next { s.faults.set.get next with pending := false })
      ⟨next, time, detail⟩ s := by
  have first_pending : s.faults.set.firstPending = some next :=
    List.find?_eq_some_iff_append.mpr ⟨hnext, higher, lower, hkinds, by simpa using hhigher⟩
  simp only [releaseRecord, first_pending, hfirst]
  rfl

end Release

/-! ### FAULT CLEAR: its two rows -/

/-- The class byte that picks the row is the class of the layout. -/
theorem namesIntegrity_eq {f : Frame} {c : Layout.Clear} (h : Layout.faultClear f.payload = some c) :
    namesIntegrity f = (c.cls == 1) := by
  unfold Layout.faultClear at h
  split at h
  · cases h
    rfl
  · cases h

/-- In the row that its class names, FAULT CLEAR on port C comes to its own checks. -/
theorem exec_faultClear {s : State} {f : Frame} {rest : List Frame} {c : Layout.Clear} (h : s.Asks .c f rest)
    (hk : f.kind = Kind.faultClear) (hl : Layout.faultClear f.payload = some c) :
    exec (if c.cls = 1 then .faultClearIntegrity .c else .faultClearOrdinary .c) s =
      .next (answered .c f (s.taken .c rest) (faultClear c (s.taken .c rest))) := by
  have role : Kind.taken Port.c.role f.kind = true := by
    rw [hk]
    decide
  by_cases hc : c.cls = 1
  · rw [if_pos hc]
    exact serve_acts faultClear h (by simp [hk, namesIntegrity_eq hl, hc]) hl role
  · rw [if_neg hc]
    exact serve_acts faultClear h (by simp [hk, namesIntegrity_eq hl, hc]) hl role

/-! ### FAULT CLEAR: its checks (R165, R168) -/

theorem FaultKind.ofCode?_of_gt {n : Nat} (h : 4 < n) : FaultKind.ofCode? n = none := by
  match n with
  | n + 5 => rfl

section Clear

variable {c : Layout.Clear} (s : State)

theorem faultClear_unknown_class (h : 1 < c.cls) : faultClear c s = .error .range := by
  rw [faultClear, if_neg (by omega), if_neg (by omega)]

theorem faultClear_ordinary (h : c.cls = 0) : faultClear c s = clearOrdinary c.kind s := if_pos h

theorem faultClear_integrity (h : c.cls = 1) : faultClear c s = clearIntegrity c.bib s := by
  rw [faultClear, if_neg (by omega), if_pos h]

theorem clearOrdinary_unknown_kind {code : Nat} (h : 4 < code) : clearOrdinary code s = .error .range := by
  rw [clearOrdinary, FaultKind.ofCode?_of_gt h]

/-- A kind that exists is refused exactly when the record does not hold it. -/
theorem clearOrdinary_known_kind {code : Nat} {k : FaultKind} (hk : FaultKind.ofCode? code = some k) :
    clearOrdinary code s =
      if s.faults.record.any (fun r => decide (r.kind = k)) then
        .ok (releaseRecord s, clearResults 0 (releaseRecord s).faults)
      else .error .state := by
  rw [clearOrdinary, hk]

theorem clearOrdinary_not_held {code : Nat} {k : FaultKind} (hk : FaultKind.ofCode? code = some k)
    (h : ∀ r, s.faults.record = some r → r.kind ≠ k) : clearOrdinary code s = .error .state :=
  (clearOrdinary_known_kind s hk).trans (if_neg (by simpa [Option.any_eq_true] using h))

theorem clearOrdinary_held {code : Nat} {k : FaultKind} {r : FaultRecord} (hk : FaultKind.ofCode? code = some k)
    (hr : s.faults.record = some r) (h : r.kind = k) :
    clearOrdinary code s = .ok (releaseRecord s, clearResults 0 (releaseRecord s).faults) :=
  (clearOrdinary_known_kind s hk).trans (if_pos (by simp [hr, h]))

theorem clearIntegrity_out_of_range {bib : Nat} (h : bib = 0 ∨ 60000 < bib) : clearIntegrity bib s = .error .range :=
  if_pos (by rw [Bool.not_eq_true', ← Bool.not_eq_true, bibOk_iff]; omega)

/-- A bib in range is refused exactly when the integrity record does not hold it. -/
theorem clearIntegrity_in_range {bib : Nat} (h : 1 ≤ bib) (h' : bib ≤ 60000) :
    clearIntegrity bib s =
      if s.faults.integrity.any (fun r => decide (r.bib = bib)) then
        .ok ({ s with faults := { s.faults with integrity := none } }, clearResults 1 { s.faults with integrity := none })
      else .error .state :=
  if_neg (by rw [bibOk_iff.mpr ⟨h, h'⟩]; decide)

theorem clearIntegrity_not_held {bib : Nat} (h : 1 ≤ bib) (h' : bib ≤ 60000)
    (hr : ∀ r, s.faults.integrity = some r → r.bib ≠ bib) : clearIntegrity bib s = .error .state :=
  (clearIntegrity_in_range s h h').trans (if_neg (by simpa [Option.any_eq_true] using hr))

theorem clearIntegrity_held {bib : Nat} {r : IntegrityRecord} (h : 1 ≤ bib) (h' : bib ≤ 60000)
    (hr : s.faults.integrity = some r) (hb : r.bib = bib) :
    clearIntegrity bib s =
      .ok ({ s with faults := { s.faults with integrity := none } }, clearResults 1 { s.faults with integrity := none }) :=
  (clearIntegrity_in_range s h h').trans (if_pos (by simp [hr, hb]))

end Clear

/-! ### FAULT CLEAR: its results (R201) -/

/-- The kind held as a byte, FF when the record is empty (R197). -/
def FaultUnit.heldByte (u : FaultUnit) : Byte :=
  match u.record.map FaultRecord.kind with
  | some .setup => 0#8 | some .timebase => 1#8 | some .crossingFull => 2#8 | some .holdFull => 3#8 | some .feed => 4#8
  | none => 0xFF#8

theorem le_heldKindCode (u : FaultUnit) : le 1 (heldKindCode u) = [u.heldByte] := by
  unfold heldKindCode FaultUnit.heldByte
  cases u.record with
  | none => rfl
  | some r =>
    obtain ⟨kind, -, -⟩ := r
    cases kind <;> rfl

/-- What FAULT CLEAR answers behind the class: the kind held, the pending set, whether the integrity record is held. -/
def FaultUnit.heldFields (u : FaultUnit) : List Byte :=
  [u.heldByte] ++ le 1 u.set.pendingByte ++ [if u.integrity.isSome then 1#8 else 0#8]

theorem clearResults_eq (cls : Nat) (u : FaultUnit) : clearResults cls u = le 1 cls ++ u.heldFields := by
  rw [clearResults, le_heldKindCode, le_yesNo, FaultUnit.heldFields]
  simp only [List.append_assoc]

/-! ### INTEGRITY SET (R169) -/

/-- A payload of one byte is one field. -/
theorem Layout.one_byte (b : Byte) : Layout.one 1 [b] = some b.toNat := rfl

theorem integritySet_out_of_range {on : Byte} (s : State) (h0 : on ≠ 0#8) (h1 : on ≠ 1#8) :
    integritySet on.toNat s = .error .range := by
  have unknown : onOff? on.toNat = none := by
    rw [← Option.isNone_iff_eq_none, onOff?_isNone_iff]
    bv_omega
  rw [integritySet, unknown]

theorem integritySet_taken {on : Byte} (s : State) (h : on = 0#8 ∨ on = 1#8) :
    integritySet on.toNat s = .ok ({ s with dir := { s.dir with integrityOn := decide (on = 1#8) } }, [on]) := by
  obtain rfl | rfl := h <;> rfl

/-! ### The fields of FAULT READ (R170, R199, R201) -/

/-- An ACK carries the kind of its request before the results (R199). -/
theorem ackFrame_payload (f : Frame) (results : List Byte) : (ackFrame f results).payload = [f.kind] ++ results := rfl

/-- A field is read from behind what stands before it. -/
theorem field_of_append {before field after : List Byte} {offset width : Nat} (hb : before.length = offset)
    (hf : field.length = width) : ((before ++ (field ++ after)).drop offset).take width = field := by
  rw [List.drop_left' hb, List.take_left' hf]

@[simp] theorem leOpt_length (n : Nat) (o : Option Nat) : (leOpt n o).length = n := by
  cases o with
  | none => exact List.length_replicate
  | some v => exact le_length n v

/-- A fault record: kind and time all ones and detail 0 while it is empty. -/
def faultRecordFields : Option FaultRecord → List Byte
  | none => List.replicate 7 0xFF#8 ++ [0#8, 0#8, 0#8, 0#8]
  | some r => le 1 r.kind.code ++ le 6 r.time ++ le 4 r.detail

/-- An integrity record behind its presence byte; while it is empty the further failures are 0 (log entry 27). -/
def integrityRecordFields : Option IntegrityRecord → List Byte
  | none => [0#8, 0#8, 0#8] ++ List.replicate 6 0xFF#8 ++ [0#8]
  | some r => [1#8] ++ le 2 r.bib ++ le 6 r.time ++ le 1 r.further

/-- An item of the fault set: time all ones and detail 0 while it has no first occurrence. -/
def faultItemFields (i : FaultItem) : List Byte :=
  le 1 i.count ++ le 1 (yesNo i.pending) ++ match i.first with
    | some x => le 6 x.1 ++ le 4 x.2
    | none => List.replicate 6 0xFF#8 ++ [0#8, 0#8, 0#8, 0#8]

theorem faultRecordFields_eq (u : FaultUnit) :
    le 1 (heldKindCode u) ++ leOpt 6 (u.record.map FaultRecord.time) ++ le 4 ((u.record.map FaultRecord.detail).getD 0)
      = faultRecordFields u.record := by
  unfold heldKindCode
  cases u.record with
  | none | some r => rfl

theorem integrityRecordFields_eq (o : Option IntegrityRecord) :
    le 1 (yesNo o.isSome) ++ le 2 ((o.map IntegrityRecord.bib).getD 0) ++ leOpt 6 (o.map IntegrityRecord.time)
      ++ le 1 ((o.map IntegrityRecord.further).getD 0) = integrityRecordFields o := by
  cases o with
  | none | some r => rfl

theorem faultItemBytes_eq (i : FaultItem) : faultItemBytes i = faultItemFields i := by
  rw [faultItemBytes, faultItemFields, List.append_assoc]
  cases i.first with
  | none | some x => rfl

@[simp] theorem faultRecordFields_length (o : Option FaultRecord) : (faultRecordFields o).length = 11 := by
  cases o with
  | none | some r => rfl

@[simp] theorem integrityRecordFields_length (o : Option IntegrityRecord) : (integrityRecordFields o).length = 10 := by
  cases o with
  | none | some r => rfl

@[simp] theorem faultItemFields_length (i : FaultItem) : (faultItemFields i).length = 12 := by
  rw [← faultItemBytes_eq]
  simp [faultItemBytes]

/-- The five items in the order of their priority. -/
def faultSetFields (set : FaultSet) : List Byte :=
  faultItemFields set.setup ++ faultItemFields set.timebase ++ faultItemFields set.crossingFull
    ++ faultItemFields set.holdFull ++ faultItemFields set.feed

@[simp] theorem faultSetFields_length (set : FaultSet) : (faultSetFields set).length = 60 := by
  simp [faultSetFields]

theorem faultSetFields_eq (set : FaultSet) : faultKinds.flatMap (fun k => faultItemBytes (set.get k)) = faultSetFields set := by
  simp [faultKinds, faultSetFields, faultItemBytes_eq, FaultSet.get]

/-- FAULT READ's results are its four fields one behind the other. -/
theorem faultReadResults_eq (s : State) :
    faultReadResults s = faultRecordFields s.faults.record ++ (integrityRecordFields s.faults.integrity
      ++ (faultSetFields s.faults.set ++ le 1 (yesNo s.dir.integrityOn))) := by
  rw [← faultRecordFields_eq, ← integrityRecordFields_eq, ← faultSetFields_eq]
  simp only [faultReadResults, List.append_assoc]

section FaultRead

variable (kind : Byte) (s : State)

theorem faultRead_payload_length : (kind :: faultReadResults s).length = 83 := by
  simp [faultReadResults_eq]

theorem faultRead_record_field :
    ((kind :: faultReadResults s).drop 1).take 11 = faultRecordFields s.faults.record := by
  rw [faultReadResults_eq, ← List.singleton_append]
  exact field_of_append rfl (faultRecordFields_length _)

theorem faultRead_integrity_field :
    ((kind :: faultReadResults s).drop 12).take 10 = integrityRecordFields s.faults.integrity := by
  rw [faultReadResults_eq, ← List.singleton_append, ← List.append_assoc]
  exact field_of_append (by simp) (integrityRecordFields_length _)

theorem faultRead_set_field : ((kind :: faultReadResults s).drop 22).take 60 = faultSetFields s.faults.set := by
  rw [faultReadResults_eq, ← List.singleton_append, ← List.append_assoc, ← List.append_assoc]
  exact field_of_append (by simp) (faultSetFields_length _)

theorem faultRead_enable_field : ((kind :: faultReadResults s).drop 82).take 1 = le 1 (yesNo s.dir.integrityOn) := by
  rw [faultReadResults_eq, ← List.singleton_append, ← List.append_assoc, ← List.append_assoc, ← List.append_assoc,
    List.drop_left' (by simp)]
  rfl

end FaultRead

/-! ### The blocks of STATUS READ (R171, R199, R201) -/

/-- A source as a byte (R197). -/
def sourceByte : Source → Byte
  | .sync => 0#8 | .beacon => 1#8 | .xo => 2#8 | .rc => 3#8

/-- The requested source as a byte, FF for none (R197). -/
def requestedByte : Option Source → Byte
  | none => 0xFF#8
  | some x => sourceByte x

/-- The state of a source as a byte (R197). -/
def SourceState.byte : SourceState → Byte
  | .starting => 0#8 | .qualified => 1#8 | .failed => 2#8

def LinkState.byte : LinkState → Byte
  | .silent => 0#8 | .active => 1#8

def MatState.byte : MatState → Byte
  | .disarmed => 0#8 | .armed => 1#8

theorem le_source_code (x : Source) : le 1 x.code = [sourceByte x] := by
  cases x <;> rfl

/-- The quality that a source gives has the source's own code (R135, R197). -/
theorem le_source_quality (x : Source) : le 1 x.quality.code = [sourceByte x] := by
  cases x <;> rfl

theorem le_requestedCode (o : Option Source) : le 1 (requestedCode o) = [requestedByte o] := by
  cases o with
  | none => rfl
  | some x => exact le_source_code x

theorem SourceState.le_code (x : SourceState) : le 1 x.code = [x.byte] := by
  cases x <;> rfl

theorem LinkState.le_code (x : LinkState) : le 1 x.code = [x.byte] := by
  cases x <;> rfl

theorem MatState.le_code (x : MatState) : le 1 x.code = [x.byte] := by
  cases x <;> rfl

/-- The lead in two bytes is its remainder by 65536 (R199). -/
theorem leadBytes_eq (lead : Int) : leadBytes lead = le 2 (lead % 65536).toNat := by
  rw [leadBytes, BitVec.toNat_ofInt]
  rfl

/-- The epoch behind its presence byte. -/
def epochFields : Option Nat → List Byte
  | none => [0#8] ++ List.replicate 6 0xFF#8
  | some e => [1#8] ++ le 6 e

theorem epochFields_eq (o : Option Nat) : le 1 (yesNo o.isSome) ++ leOpt 6 o = epochFields o := by
  cases o with
  | none | some e => rfl

def feedFields (x : FeedState) : List Byte :=
  [x.link.byte] ++ [x.mat.byte] ++ le 2 x.queue.length ++ countBytes x.counts

theorem feedBytes_eq (x : FeedState) : feedBytes x = feedFields x := by
  rw [feedBytes, LinkState.le_code, MatState.le_code, feedFields]

def refFields (x : RefState) : List Byte :=
  [x.state.byte] ++ le 1 (if x.state = .starting then x.count else 0)
    ++ le 1 (if x.state = .qualified then x.misses else 0)

theorem refBytes_eq (x : RefState) : refBytes x = refFields x := by
  rw [refBytes, SourceState.le_code, refFields]

theorem clockBytes_eq (c : Timebase) :
    clockBytes c = epochFields c.epoch ++ le 6 c.courseTime
      ++ [sourceByte c.current, sourceByte c.current, requestedByte c.requested] ++ refFields c.sync ++ refFields c.beacon
      ++ [c.xo.state.byte] ++ le 2 (if c.xo.state = .starting then c.xo.count else 0) ++ le 2 (c.lead % 65536).toNat
      ++ [if c.lock then 1#8 else 0#8] ++ [if c.clockFail then 1#8 else 0#8] ++ [if c.failSafe then 1#8 else 0#8] := by
  rw [clockBytes, epochFields_eq, le_source_code, le_source_quality, le_requestedCode, refBytes_eq, refBytes_eq,
    SourceState.le_code, leadBytes_eq, le_yesNo, le_yesNo, le_yesNo]
  simp only [List.append_assoc]
  rfl

theorem boardStatus_eq (b : Board) :
    boardStatus b = le 1 b.lead.length ++ le 1 b.feat.length ++ le 2 b.flow.length ++ le 2 b.banner
      ++ [if b.lastOffer.isSome then 1#8 else 0#8] ++ le 1 b.pattern ++ le 1 b.slot ++ le 1 b.pageCount := by
  rw [boardStatus, le_yesNo]

@[simp] theorem countBytes_length (c : OutcomeCounts) : (countBytes c).length = 48 := by
  simp only [countBytes, List.length_append, le_length]

@[simp] theorem feedBytes_length (x : FeedState) : (feedBytes x).length = 52 := by
  simp only [feedBytes, List.length_append, le_length, countBytes_length]

@[simp] theorem refBytes_length (x : RefState) : (refBytes x).length = 3 := by
  simp only [refBytes, List.length_append, le_length]

@[simp] theorem clockBytes_length (c : Timebase) : (clockBytes c).length = 30 := by
  simp only [clockBytes, leadBytes, List.length_append, le_length, leOpt_length, refBytes_length]

@[simp] theorem boardStatus_length (b : Board) : (boardStatus b).length = 10 := by
  simp only [boardStatus, List.length_append, le_length]

theorem statusResults_length (s : State) : (statusResults s).length = 178 := by
  unfold statusResults
  simp only [List.length_append, le_length, feedBytes_length, clockBytes_length, boardStatus_length]

/-! ### The statements -/

/-- Settles O43: the branches of `raiseFault` by what the record holds, the bound of `State.notice`, and the byte read bit by
bit. -/
theorem faultsAreRaised : Obligations.FaultsAreRaised := by
  refine ⟨fun s k detail => ?raised, fun s kind payload => ?notice, fun set => ?byte⟩
  case raised =>
    intro item count opened with_ code
    refine ⟨fun hr => ?captured, fun r hr h => ?known, fun r hr hk hp => ?waits⟩
    case captured =>
      intro set
      rw [raiseFault_captures k detail hr, capture_put]
      rfl
    case known => exact raiseFault_known detail hr h
    case waits => exact raiseFault_waits detail hr hk hp
  case notice => exact ⟨notice_placed kind payload, notice_full kind payload⟩
  case byte =>
    refine ⟨set.pendingByte_lt, ?_⟩
    rw [set.pendingByte_eq_bits]
    simp only [Nat.testBit_bit_zero, Nat.testBit_bit_succ, and_self]

/-- Settles O44: the checks of FAULT CLEAR class by class and those of INTEGRITY SET, and what an accepted request leaves and
answers. -/
theorem faultClearTaken : Obligations.FaultClearTaken := by
  intro s f rest ha u held
  refine ⟨fun c hk hl => ?clear, fun on hk hl => ?set⟩
  case clear =>
    intro row refused
    have served : exec row s = .next (answered .c f u (faultClear c u)) := exec_faultClear ha hk hl
    have refuses {why} (h : faultClear c u = .error why) : refused why := by
      simp only [refused, served, answered_refused h]
    refine ⟨fun h => ?no_class, fun h0 h => ?no_kind, fun k h0 hcode => ?ordinary, fun h1 h => ?no_bib,
      fun h1 h h' hr => ?bib_not_held, fun r h1 h h' hr hb => ?bib_held⟩
    case no_class => exact refuses (faultClear_unknown_class u h)
    case no_kind => exact refuses ((faultClear_ordinary u h0).trans (clearOrdinary_unknown_kind u h))
    case ordinary =>
      have accepts {r : FaultRecord} {t : State} (hr : s.faults.record = some r) (hk : r.kind = k) (ht : releaseRecord u = t) :
          exec row s = .next (t.ack .c f ([0#8] ++ held t.faults)) := by
        rw [served, faultClear_ordinary u h0, answered_accepted (clearOrdinary_held u hcode hr hk), ht, clearResults_eq]
        rfl
      refine ⟨fun hr => ?not_held, fun r hr hk hp => ?none_pending, ?next_captured⟩
      case not_held => exact refuses ((faultClear_ordinary u h0).trans (clearOrdinary_not_held u hcode hr))
      case none_pending => exact accepts hr hk (releaseRecord_of_none_pending hp)
      case next_captured =>
        intro r higher next lower time detail hr hk hkinds hhigher hnext hfirst fu
        have captured := releaseRecord_of_pending (s := u) hkinds hhigher hnext hfirst
        rw [capture_put] at captured
        have kind_byte : le 1 next.code = (held fu).take 1 := le_heldKindCode fu
        have answer := accepts hr hk captured
        rw [notice_faults, kind_byte] at answer
        exact answer
    case no_bib => exact refuses ((faultClear_integrity u h1).trans (clearIntegrity_out_of_range u h))
    case bib_not_held => exact refuses ((faultClear_integrity u h1).trans (clearIntegrity_not_held u h h' hr))
    case bib_held =>
      intro fu
      rw [served, faultClear_integrity u h1, answered_accepted (clearIntegrity_held u h h' hr hb), clearResults_eq]
      rfl
  case set =>
    have served : exec (.integritySet .c) s = .next (answered .c f u (integritySet on.toNat u)) :=
      serve_control integritySet ha hk (hl ▸ Layout.one_byte on) (by decide)
    refine ⟨fun h0 h1 => ?unknown, fun h => ?taken⟩
    case unknown => rw [served, answered_refused (integritySet_out_of_range u h0 h1)]
    case taken =>
      rw [served, answered_accepted (integritySet_taken u h)]
      rfl

/-- Settles O45: both requests answer from the state in which they were taken; FAULT READ's fields stand one behind the other,
and STATUS READ's blocks are those of the statement. -/
theorem faultsAndStatusRead : Obligations.FaultsAndStatusRead := by
  intro s f rest ha hl u
  refine ⟨fun hk => ?fault, fun hk => ?status⟩
  case fault =>
    have served : exec (.faultRead .c) s = .next (u.ack .c f (faultReadResults u)) :=
      serve_control (fun _ t => .ok (t, faultReadResults t)) ha hk (if_pos hl) (by decide)
    refine ⟨faultReadResults u, served, ?_⟩
    intro pl field item
    have record_field := faultRead_record_field f.kind u
    have integrity_field := faultRead_integrity_field f.kind u
    exact ⟨faultRead_payload_length f.kind u,
      fun hr => record_field.trans (congrArg faultRecordFields hr),
      fun _ hr => record_field.trans (congrArg faultRecordFields hr),
      fun hi => integrity_field.trans (congrArg integrityRecordFields hi),
      fun _ hi => integrity_field.trans (congrArg integrityRecordFields hi),
      faultRead_set_field f.kind u, faultRead_enable_field f.kind u⟩
  case status =>
    have served : exec (.statusRead .c) s = .next (u.ack .c f (statusResults u)) :=
      serve_control (fun _ t => .ok (t, statusResults t)) ha hk (if_pos hl) (by decide)
    refine ⟨statusResults u, served, ?_⟩
    intro bit counts feed source state reference
    refine ⟨?_, congrArg (· + 1) (statusResults_length u)⟩
    unfold statusResults
    rw [ackFrame_payload, feedBytes_eq, feedBytes_eq, boardStatus_eq, clockBytes_eq, le_heldKindCode]
    simp only [le_yesNo, List.append_assoc]
    rfl

end Sys2Proof.Machine
end

section
/-! SUPPORT. The course link (O10): what DESCRIBE answers leaf by leaf, on any port, and the statement about it. -/

namespace Sys2Proof.Machine

/-! ### DESCRIBE (R186) -/

/-- Any port takes DESCRIBE to the leaf that its one byte names. -/
theorem execDescribe_of_asks {s : State} {p : Port} {f : Frame} {rest : List Frame} {leaf : Byte} (h : s.Asks p f rest)
    (hk : f.kind = Kind.describe) (hl : f.payload = [leaf]) :
    exec (.describe p) s = .next (answered p f (s.taken p rest) (describe p leaf.toNat (s.taken p rest))) := by
  have role : Kind.taken p.role f.kind = true := by
    rw [hk]
    exact Kind.taken_of_ofAll (by decide) p.role
  have one_field : Layout.one 1 f.payload = some leaf.toNat := hl ▸ Layout.one_byte leaf
  exact serve_acts (describe p) h (beq_iff_eq.mpr hk) one_field role

/-- The port's letter and role as bytes (R197). -/
def portFields : Port → List Byte
  | .a => [0#8, 0#8] | .b => [1#8, 0#8] | .c => [2#8, 1#8] | .d => [3#8, 2#8]

theorem leafPort_eq (p : Port) (rate : LineRate) : leafPort p rate = portFields p ++ le 4 rate.baud := by
  cases p with
  | a | b | c | d => rfl

section Leaves

variable (p : Port) (s : State)

theorem describe_identity : describe p 0 s = .ok (s, 0#8 :: leafIdentity) := rfl

theorem describe_capacities : describe p 1 s = .ok (s, 1#8 :: leafCapacities) := rfl

theorem describe_port : describe p 2 s = .ok (s, 2#8 :: (portFields p ++ le 4 s.lineRate.baud)) := by
  rw [← leafPort_eq]
  rfl

theorem describe_out_of_range {leaf : Nat} (h : 2 < leaf) : describe p leaf s = .error .range := by
  match leaf, h with
  | _ + 3, _ => rfl

end Leaves

/-! ### The statement -/

/-- Settles O10: the request is answered from the state in which it was taken, with the leaf that its one byte names. -/
theorem describeTaken : Obligations.DescribeTaken := by
  intro s p f rest leaf ha hk hl ack
  have served := execDescribe_of_asks ha hk hl
  have accepts {results : List Byte}
      (h : describe p leaf.toNat (s.taken p rest) = .ok (s.taken p rest, leaf :: results)) : ack results :=
    served.trans (congrArg Host.Outcome.next (answered_accepted h))
  refine ⟨?identity, ?capacities, ?port, fun h0 h1 h2 => ?other⟩
  case identity =>
    rintro rfl
    exact accepts (describe_identity p _)
  case capacities =>
    rintro rfl
    exact accepts (describe_capacities p _)
  case port =>
    rintro rfl
    exact accepts (describe_port p _)
  case other =>
    have beyond : 2 < leaf.toNat := by bv_omega
    rw [served, answered_refused (describe_out_of_range p _ beyond)]

end Sys2Proof.Machine
end

section
/-! SUPPORT. What an action of a block keeps (O3, O53 to O59): the relation that says it, one rule for each block of the state,
and the shared operations by these rules. -/

namespace Sys2Proof.Machine

/-! ### The ports under an action of a block -/

/-- The ports differ in nothing but notices placed behind port C's queue, which they do not take beyond 15 (R184). -/
def Ports.Announced (x y : Ports) : Prop :=
  ∃ more : List TxFrame, y = { x with c := { x.c with tx := x.c.tx ++ more } } ∧ (∀ m ∈ more, m.isNotice = true) ∧
    (more ≠ [] → x.c.notices + more.length ≤ noticeCap)

theorem PortState.notices_append {ps : PortState} {more : List TxFrame} (h : ∀ m ∈ more, m.isNotice = true) :
    ({ ps with tx := ps.tx ++ more } : PortState).notices = ps.notices + more.length := by
  simp only [notices, List.filter_append, List.length_append, List.filter_eq_self.mpr h]

theorem PortState.answers_append {ps : PortState} {more : List TxFrame} (h : ∀ m ∈ more, m.isNotice = true) :
    ({ ps with tx := ps.tx ++ more } : PortState).answers = ps.answers := by
  have none_counted : more.filter (fun m => !m.isNotice) = [] := List.filter_eq_nil_iff.mpr (by simpa using h)
  simp only [answers, List.filter_append, none_counted, List.append_nil]

theorem Ports.Announced.refl (x : Ports) : x.Announced x := ⟨[], by simp, by simp, fun h => absurd rfl h⟩

theorem Ports.Announced.trans {x y z : Ports} (h : x.Announced y) (h' : y.Announced z) : x.Announced z := by
  obtain ⟨first, rfl, hfirst, room⟩ := h
  obtain ⟨second, rfl, hsecond, room'⟩ := h'
  rw [PortState.notices_append hfirst] at room'
  refine ⟨first ++ second, by simp, fun m hm => (List.mem_append.mp hm).elim (hfirst m) (hsecond m), fun hne => ?_⟩
  rw [List.length_append]
  by_cases hs : second = []
  · subst hs
    exact room (by simpa using hne)
  · have := room' hs
    omega

/-- Notices leave every port's buffer, request in work and answers as they were. -/
theorem Ports.Announced.get {x y : Ports} (h : x.Announced y) (p : Port) :
    (y.get p).buffer = (x.get p).buffer ∧ (y.get p).inWork = (x.get p).inWork ∧ (y.get p).answers = (x.get p).answers := by
  obtain ⟨more, rfl, hmore, -⟩ := h
  cases p with
  | a | b | d => exact ⟨rfl, rfl, rfl⟩
  | c => exact ⟨rfl, rfl, PortState.answers_append hmore⟩

theorem Ports.Announced.portsOk {s t : State} (h : s.ports.Announced t.ports) (ok : s.PortsOk) : t.PortsOk := by
  obtain ⟨more, ht, hmore, room⟩ := h
  obtain ⟨ha, hb, ⟨hbuffer, hanswers, hwork, hnotices, hdiscards⟩, hd⟩ := ok
  unfold State.PortsOk
  rw [ht]
  refine ⟨ha, hb, ⟨hbuffer, ?_, ?_, ?_, hdiscards⟩, hd⟩
  · rwa [PortState.answers_append hmore]
  · rwa [PortState.answers_append hmore]
  · rw [PortState.notices_append hmore]
    by_cases hm : more = []
    · simpa [hm] using hnotices
    · exact room hm

/-! ### What is kept -/

/-- The invariants are kept, and the queue of commands is as it was. -/
structure Kept (s t : State) : Prop where
  pending : t.pending = s.pending
  ports : s.PortsOk → t.PortsOk
  stores : s.StoresOk → t.StoresOk
  faults : s.faults.Ok → t.faults.Ok
  clock : s.ClockOk → t.ClockOk
  settings : s.SettingsOk → t.SettingsOk
  quiet : s.QuietBeforeGun → t.QuietBeforeGun

/-- Course time has not gone back, and a race epoch stands. -/
def State.NotAfter (s t : State) : Prop := s.now ≤ t.now ∧ ∀ e, s.clock.epoch = some e → t.clock.epoch = some e

/-- What a command other than a cold reset does to the part. -/
structure Steps (s t : State) : Prop extends Kept s t where
  time : s.NotAfter t

/-- What an action of a block does to the part: no port is touched but for notices. -/
structure Acts (s t : State) : Prop extends Steps s t where
  announced : s.ports.Announced t.ports
  held : t.held = s.held

theorem Kept.trans {s t u : State} (h : Kept s t) (h' : Kept t u) : Kept s u where
  pending := h'.pending.trans h.pending
  ports := h'.ports ∘ h.ports
  stores := h'.stores ∘ h.stores
  faults := h'.faults ∘ h.faults
  clock := h'.clock ∘ h.clock
  settings := h'.settings ∘ h.settings
  quiet := h'.quiet ∘ h.quiet

theorem State.NotAfter.trans {s t u : State} (h : s.NotAfter t) (h' : t.NotAfter u) : s.NotAfter u :=
  ⟨h.1.trans h'.1, fun e he => h'.2 e (h.2 e he)⟩

theorem Steps.trans {s t u : State} (h : Steps s t) (h' : Steps t u) : Steps s u where
  toKept := h.toKept.trans h'.toKept
  time := h.time.trans h'.time

theorem Acts.trans {s t u : State} (h : Acts s t) (h' : Acts t u) : Acts s u where
  toSteps := h.toSteps.trans h'.toSteps
  announced := h.announced.trans h'.announced
  held := h'.held.trans h.held

/-! ### One rule for each block -/

section Blocks

variable {s : State}

theorem State.NotAfter.refl (s : State) : s.NotAfter s := ⟨le_rfl, fun _ he => he⟩

theorem Steps.refl (s : State) : Steps s s := ⟨⟨rfl, id, id, id, id, id, id⟩, .refl s⟩

theorem Acts.refl (s : State) : Acts s s := ⟨.refl s, .refl _, rfl⟩

theorem Acts.of_notice {kind : Byte} (payload : List Byte)
    (hk : kind = Kind.faultNotice ∨ kind = Kind.holdNotice ∨ kind = Kind.clockNotice) : Acts s (s.notice kind payload) := by
  unfold State.notice
  split
  · rename_i room
    have announced : s.ports.Announced
        (s.setPort .c ((s.port .c).place { kind := kind, tag := 0#16, payload := payload } false)).ports := by
      refine ⟨[⟨⟨kind, 0#16, payload⟩, false⟩], rfl, fun m hm => ?_, fun _ => room⟩
      rw [List.mem_singleton.mp hm]
      obtain rfl | rfl | rfl := hk <;> rfl
    exact ⟨⟨⟨rfl, announced.portsOk, id, id, id, id, id⟩, .refl s⟩, announced, rfl⟩
  · exact .refl s

theorem Acts.of_faults {x : FaultUnit} (h : s.faults.Ok → x.Ok) : Acts s { s with faults := x } :=
  ⟨⟨⟨rfl, id, id, h, id, id, id⟩, .refl s⟩, .refl _, rfl⟩

theorem Acts.of_log {l : SplitLog} (h : s.log.Ok → l.Ok) : Acts s { s with log := l } where
  toKept := { (Steps.refl s).toKept with
    stores := fun ⟨hdir, halias, hengine, hhold, hlog, hlanes, ha, hb⟩ =>
      ⟨hdir, halias, hengine, hhold, h hlog, hlanes, ha, hb⟩ }
  time := .refl s
  announced := .refl _
  held := rfl

theorem Acts.of_dir {d : Directory} (hc : s.dir.Canonical → d.Canonical) (ha : s.dir.AliasOk → d.AliasOk) :
    Acts s { s with dir := d } where
  toKept := { (Steps.refl s).toKept with
    stores := fun ⟨hdir, halias, hengine, hhold, hlog, hlanes, hfa, hfb⟩ =>
      ⟨hc hdir, ha halias, hengine, hhold, hlog, hlanes, hfa, hfb⟩ }
  time := .refl s
  announced := .refl _
  held := rfl

theorem Acts.of_engine {e : Engine} (hok : s.engine.Ok → e.Ok) (hp : PointOk s.engine.point = true → PointOk e.point = true)
    (hq : s.clock.epoch = none → s.engine.crossings = [] → e.crossings = []) : Acts s { s with engine := e } where
  toKept := { (Steps.refl s).toKept with
    stores := fun ⟨hdir, halias, hengine, hhold, hlog, hlanes, hfa, hfb⟩ =>
      ⟨hdir, halias, hok hengine, hhold, hlog, hlanes, hfa, hfb⟩
    settings := fun ⟨⟨hpoint, hrest⟩, hblock⟩ => ⟨⟨hp hpoint, hrest⟩, hblock⟩
    quiet := fun h he =>
      have ⟨ha, hb, hl, hr, hx⟩ := h he
      ⟨ha, hb, hl, hr, hq he hx⟩ }
  time := .refl s
  announced := .refl _
  held := rfl

/-- The hold list changes no size of its timeout's range; before the gun it stays empty. -/
theorem Acts.of_hold {h : HoldUnit} (hok : s.hold.Ok → h.Ok)
    (ht : 1 ≤ s.hold.timeout ∧ s.hold.timeout ≤ 60 → 1 ≤ h.timeout ∧ h.timeout ≤ 60)
    (hq : s.clock.epoch = none → s.hold.list = [] → s.hold.release = [] → h.list = [] ∧ h.release = []) :
    Acts s { s with hold := h } where
  toKept := { (Steps.refl s).toKept with
    stores := fun ⟨hdir, halias, hengine, hhold, hlog, hlanes, hfa, hfb⟩ =>
      ⟨hdir, halias, hengine, hok hhold, hlog, hlanes, hfa, hfb⟩
    settings := fun ⟨⟨hpoint, htimeout, hrest⟩, hblock⟩ => ⟨⟨hpoint, ht htimeout, hrest⟩, hblock⟩
    quiet := fun h he =>
      have ⟨ha, hb, hl, hr, hx⟩ := h he
      ⟨ha, hb, (hq he hl hr).1, (hq he hl hr).2, hx⟩ }
  time := .refl s
  announced := .refl _
  held := rfl

/-- The settings and the rotation of a board in their ranges (R114, R116, R121). -/
def Board.InRange (b : Board) : Prop := BoardOk b.settings = true ∧ RotationOk b.rotation ∧ b.SlotOk

theorem Acts.of_board {b : Board} (hl : s.board.LanesOk → b.LanesOk) (hr : s.board.InRange → b.InRange)
    (hs : s.held = true → b.slot = s.board.slot ∧ b.pageCount = s.board.pageCount) : Acts s { s with board := b } where
  toKept := { (Steps.refl s).toKept with
    stores := fun ⟨hdir, halias, hengine, hhold, hlog, hlanes, hfa, hfb⟩ =>
      ⟨hdir, halias, hengine, hhold, hlog, hl hlanes, hfa, hfb⟩
    settings := fun ⟨⟨hpoint, htimeout, hboard, hrotation⟩, hcoded, hwriting, hslot, hheld⟩ =>
      have ⟨hboard', hrotation', hslot'⟩ := hr ⟨hboard, hrotation, hslot⟩
      ⟨⟨hpoint, htimeout, hboard', hrotation'⟩, hcoded, hwriting, hslot', fun hh =>
        have ⟨same_slot, same_count⟩ := hs hh
        ⟨same_slot.trans (hheld hh).1, same_count.trans (hheld hh).2⟩⟩ }
  time := .refl s
  announced := .refl _
  held := rfl

theorem Acts.of_clock {c : Timebase} (hok : s.clock.Ok → c.Ok) (hc : s.held = true → c.current = s.clock.current)
    (ht : s.clock.courseTime ≤ c.courseTime) (he : ∀ e, s.clock.epoch = some e → c.epoch = some e) :
    Acts s { s with clock := c } where
  toKept := { (Steps.refl s).toKept with
    clock := fun ⟨hclock, hheld⟩ => ⟨hok hclock, fun hh => (hc hh).trans (hheld hh)⟩
    quiet := fun h hn => h (Option.eq_none_iff_forall_ne_some.mpr fun e hs => by cases hn.symm.trans (he e hs)) }
  time := ⟨ht, he⟩
  announced := .refl _
  held := rfl

theorem Acts.of_setup {x : SetupStore} (h : s.SettingsOk →
    (∀ y ∈ x.block.codedFor, SettingsInRange y) ∧ ∀ w ∈ x.writing, SettingsInRange w.copy) :
    Acts s { s with setup := x } where
  toKept := { (Steps.refl s).toKept with
    settings := fun ok =>
      have ⟨hworking, _, _, hslot⟩ := ok
      ⟨hworking, (h ok).1, (h ok).2, hslot⟩ }
  time := .refl s
  announced := .refl _
  held := rfl

theorem Acts.of_setFeed {x : Feed} {fs : FeedState} (hok : (s.feed x).Ok → fs.Ok)
    (hq : s.clock.epoch = none → (s.feed x).queue = [] → fs.queue = []) : Acts s (s.setFeed x fs) where
  toKept := { (Steps.refl s).toKept with
    stores := fun ⟨hdir, halias, hengine, hhold, hlog, hlanes, ha, hb⟩ => by
      cases x with
      | a => exact ⟨hdir, halias, hengine, hhold, hlog, hlanes, hok ha, hb⟩
      | b => exact ⟨hdir, halias, hengine, hhold, hlog, hlanes, ha, hok hb⟩
    quiet := fun h he => by
      obtain ⟨ha, hb, hrest⟩ := h he
      cases x with
      | a => exact ⟨hq he ha, hb, hrest⟩
      | b => exact ⟨ha, hq he hb, hrest⟩ }
  time := .refl s
  announced := .refl _
  held := rfl

/-- The counter, the mark of a due restart and the line rate stand under no invariant. -/
theorem Steps.of_restartDue (due : Bool) : Steps s { s with restartDue := due } := ⟨⟨rfl, id, id, id, id, id, id⟩, .refl s⟩

end Blocks

/-! ### The shared operations -/

section Operations

variable {s : State}

theorem count_acts (s : State) (x : Feed) (o : ReadOutcome) : Acts s (s.count x o) := .of_setFeed id fun _ => id

/-- A feed's link or mat changes; its queue does not. -/
theorem updateFeed_acts {x : Feed} {fs : FeedState} (hok : (s.feed x).Ok → fs.Ok) (hq : fs.queue = (s.feed x).queue) :
    Acts s (s.updateFeed x fs) := by
  have set : Acts s (s.setFeed x fs) := .of_setFeed hok fun _ h => hq.trans h
  unfold State.updateFeed
  split
  · exact set.trans (.of_engine (fun ok => ok.waitingEnded x _) id fun _ h => List.map_eq_nil_iff.mpr h)
  · exact set

theorem raiseFault_acts (k : FaultKind) (detail : Nat) (s : State) : Acts s (raiseFault k detail s) := by
  cases hr : s.faults.record with
  | none =>
    have captured := raiseFault_captures k detail hr
    have keeps_ok := fun ok : s.faults.Ok => captured ▸ ok.raise k detail
    simp only [capture, notice_faults] at keeps_ok
    rw [captured]
    exact (Acts.of_faults keeps_ok).trans (.of_notice _ (.inl rfl))
  | some r =>
    obtain ⟨item, counted, -⟩ := raiseFault_counts k detail hr
    rw [counted]
    exact .of_faults fun ok => by simpa only [counted] using ok.raise k detail

theorem releaseRecord_acts (s : State) : Acts s (releaseRecord s) := by
  cases hf : s.faults.set.firstPending with
  | none =>
    have released : releaseRecord s = { s with faults := { s.faults with record := none } } := by simp only [releaseRecord, hf]
    rw [released]
    exact .of_faults fun ok => by simpa only [released] using ok.release
  | some k =>
    have keeps_ok := fun ok : s.faults.Ok => ok.release
    simp only [releaseRecord, hf, capture, notice_faults] at keeps_ok ⊢
    exact (Acts.of_faults keeps_ok).trans (.of_notice _ (.inl rfl))

theorem integrityFailure_acts (bib : Nat) (s : State) : Acts s (integrityFailure bib s) := by
  cases hi : s.faults.integrity with
  | none =>
    rw [integrityFailure_captures bib hi]
    exact (Acts.of_faults (x := { s.faults with integrity := some ⟨bib, s.now, 0⟩ }) id).trans (.of_notice _ (.inl rfl))
  | some held =>
    rw [integrityFailure_counts bib hi]
    exact .of_faults id

theorem Acts.of_write (bib : Nat) (x : RecordFields) : Acts s { s with dir := s.dir.write bib x } :=
  .of_dir (fun ok => ok.write bib x) id

theorem readChecked_acts (bib : Nat) (s : State) : Acts s (readChecked bib s).2 := by
  unfold readChecked
  dsimp only
  split
  · exact (Acts.of_write bib _).trans (integrityFailure_acts bib _)
  · exact .refl s

theorem discardHold_acts (x : Feed) (chip : Nat) (h : s.hold.list ≠ []) : Acts s (discardHold x chip s) := by
  have flagged : Acts (s.count x .lost) { s.count x .lost with hold := { s.hold with holdOver := true } } :=
    .of_hold (fun ⟨hlist, hchips, hrelease, _⟩ => ⟨hlist, hchips, hrelease, fun hn => absurd hn h⟩) id
      (fun _ hl hr => ⟨hl, hr⟩)
  exact ((count_acts s x .lost).trans flagged).trans (raiseFault_acts .holdFull chip _)

/-- A hold is handed over in a running race alone. -/
theorem holdRead_acts (r : JudgedRead) (reason : HoldReason) (hrace : s.clock.epoch ≠ none) :
    Acts s (holdRead r reason s) := by
  by_cases listed : ∃ e ∈ s.hold.list, e.chip = r.chip
  · rw [holdRead_merges reason listed]
    refine (count_acts s r.feed .held).trans (.of_hold (fun ok => ok.map fun e => ?_) id fun hn => absurd hn hrace)
    split <;> rfl
  · have not_found : s.hold.find? r.chip = none := HoldUnit.find?_none.mpr fun e he hc => listed ⟨e, he, hc⟩
    by_cases room : s.hold.list.length < holdCap
    · have joins : Acts s (s.listHold r reason) :=
        (count_acts s r.feed .held).trans (.of_hold (fun ok => ok.add not_found room) id fun hn => absurd hn hrace)
      by_cases hl : s.hold.list = []
      · rw [holdRead_first reason listed hl]
        exact joins.trans (.of_notice _ (.inr (.inl rfl)))
      · rw [holdRead_joins reason listed hl room]
        exact joins
    · have full : holdCap ≤ s.hold.list.length := Nat.not_lt.mp room
      rw [holdRead_discards reason listed full]
      refine discardHold_acts r.feed r.chip fun hn => ?_
      rw [hn] at full
      exact absurd full (by decide)

theorem Board.offer_keeps (b : Board) (now : Nat) (x : BoardPosting) :
    (b.offer now x).settings = b.settings ∧ (b.offer now x).rotation = b.rotation ∧ (b.offer now x).slot = b.slot ∧
      (b.offer now x).pageCount = b.pageCount := by
  unfold offer
  dsimp only
  split
  · exact ⟨rfl, rfl, rfl, rfl⟩
  · split <;> exact ⟨rfl, rfl, rfl, rfl⟩

theorem offer_acts (s : State) (x : BoardPosting) : Acts s { s with board := s.board.offer s.now x } := by
  obtain ⟨same_settings, same_rotation, same_slot, same_count⟩ := s.board.offer_keeps s.now x
  refine .of_board (fun ok => ok.offer s.now x) (fun h => ?_) fun _ => ⟨same_slot, same_count⟩
  simpa only [Board.InRange, Board.SlotOk, same_settings, same_rotation, same_slot, same_count] using h

/-- A record, a log entry and what it does to the board. -/
theorem Acts.of_split {d : Directory} {l : SplitLog} {b : Board} (hdir : s.dir.Canonical → d.Canonical)
    (halias : s.dir.AliasOk → d.AliasOk) (hlog : s.log.Ok → l.Ok) (hboard : Acts s { s with board := b }) :
    Acts s { s with dir := d, log := l, board := b } := by
  have written : Acts { s with board := b } { s with board := b, dir := d } := .of_dir hdir halias
  have logged : Acts { s with board := b, dir := d } { s with board := b, dir := d, log := l } := .of_log hlog
  exact hboard.trans (written.trans logged)

theorem post_acts (i : PostInput) (raceNow : Nat) (s : State) : Acts s (post i raceNow s).2 := by
  unfold post
  refine (readChecked_acts i.bib s).trans (.of_split (fun ok => (ok.setPlace _ _ _).write _ _) id
    (fun ok => ok.append _ _ _ _ _) ?_)
  split
  · exact .refl _
  · exact offer_acts _ _

end Operations

end Sys2Proof.Machine
end

section
/-! SUPPORT. What the actions of the timebase, of the judgement of a read and of the intake arbiter keep (O53 to O59). -/

namespace Sys2Proof.Machine

/-! ### The clock's actions -/

section ClockRanges

variable {x : RefState} {c : Timebase} {r : Reference} {now : Nat}

theorem RefState.Ok.later {later : Nat} (h : x.Ok now) (hl : now ≤ later) : x.Ok later := by
  obtain ⟨hcount, hstarting, hmisses, hqualified, hreference⟩ := h
  exact ⟨hcount, hstarting, hmisses, hqualified, fun t ht => (hreference t ht).trans hl⟩

/-- No row of the table of R132 takes a count or a miss count out of its range. -/
theorem RefState.Ok.judge (h : x.Ok now) (good : Bool) : (x.judge good).Ok now := by
  obtain ⟨hcount, hstarting, hmisses, hqualified, hreference⟩ := h
  cases hs : x.state with
  | starting =>
    have no_misses : x.misses = 0 := hqualified (by simp [hs])
    cases good with
    | true =>
      by_cases hc : 16 ≤ x.count + 1
      · rw [judge_starting_qualifies hs hc]
        exact ⟨Nat.zero_le _, fun _ => rfl, Nat.zero_le _, fun _ => rfl, hreference⟩
      · rw [judge_starting_good hs (Nat.not_le.mp hc)]
        exact ⟨Nat.le_of_lt_succ (Nat.not_le.mp hc), fun hn => absurd hs hn, hmisses, fun _ => no_misses, hreference⟩
    | false =>
      rw [judge_starting_bad hs]
      exact ⟨Nat.zero_le _, fun _ => rfl, hmisses, fun _ => no_misses, hreference⟩
  | qualified =>
    have no_count : x.count = 0 := hstarting (by simp [hs])
    cases good with
    | true =>
      rw [judge_qualified_good hs]
      exact ⟨hcount, fun _ => no_count, Nat.zero_le _, fun _ => rfl, hreference⟩
    | false =>
      by_cases hm : 3 ≤ x.misses + 1
      · rw [judge_qualified_fails hs hm]
        exact ⟨hcount, fun _ => no_count, Nat.zero_le _, fun _ => rfl, hreference⟩
      · rw [judge_qualified_misses hs (Nat.not_le.mp hm)]
        exact ⟨hcount, fun _ => no_count, Nat.le_of_lt_succ (Nat.not_le.mp hm), fun hn => absurd hs hn, hreference⟩
  | failed =>
    have no_misses : x.misses = 0 := hqualified (by simp [hs])
    cases good with
    | true =>
      rw [judge_failed_good hs]
      exact ⟨Nat.le_add_left 1 14, fun hn => absurd rfl hn, hmisses, fun _ => no_misses, hreference⟩
    | false =>
      rw [judge_failed_bad hs]
      exact ⟨hcount, hstarting, hmisses, hqualified, hreference⟩

theorem Timebase.Ok.ref (h : c.Ok) (r : Reference) : (c.ref r).Ok c.courseTime := by
  obtain ⟨_, _, hsync, hbeacon, _⟩ := h
  cases r with
  | sync => exact hsync
  | beacon => exact hbeacon

theorem Timebase.Ok.setRef (h : c.Ok) (hx : x.Ok c.courseTime) : (c.setRef r x).Ok := by
  obtain ⟨htime, hepoch, hsync, hbeacon, hrest⟩ := h
  cases r with
  | sync => exact ⟨htime, hepoch, hx, hbeacon, hrest⟩
  | beacon => exact ⟨htime, hepoch, hsync, hx, hrest⟩

/-- A source's new state leaves the rest of the timebase as it was. -/
theorem Timebase.setRef_keeps (c : Timebase) (r : Reference) (x : RefState) :
    (c.setRef r x).current = c.current ∧ (c.setRef r x).courseTime = c.courseTime ∧ (c.setRef r x).epoch = c.epoch ∧
      (c.setRef r x).ref r = x := by
  cases r with
  | sync | beacon => exact ⟨rfl, rfl, rfl, rfl⟩

theorem leadOf_range (t : Nat) : -499 ≤ leadOf t ∧ leadOf t ≤ 500 := by
  unfold leadOf
  split <;> omega

theorem Timebase.Ok.fallBack (h : c.Ok) (failed : Source) : (c.fallBack failed).Ok := by
  obtain ⟨htime, hepoch, hsync, hbeacon, hxo, -, -⟩ := h
  refine ⟨htime, hepoch, hsync, hbeacon, hxo, ⟨(by decide : (-499 : Int) ≤ 0), (by decide : (0 : Int) ≤ 500)⟩, ?_⟩
  unfold Timebase.fallBack
  dsimp only
  split
  · exact (Option.some_ne_none _).symm
  · assumption

end ClockRanges

section ClockActions

variable {s : State} {r : Reference}

theorem Acts.of_setRef {x : RefState} (h : s.clock.Ok → x.Ok s.now) :
    Acts s { s with clock := s.clock.setRef r x } := by
  obtain ⟨same_current, same_time, same_epoch, -⟩ := s.clock.setRef_keeps r x
  exact .of_clock (fun ok => ok.setRef (h ok)) (fun _ => same_current) same_time.ge fun e he => same_epoch.trans he

theorem fallback_acts (failed : Source) (hh : s.held = false) : Acts s (fallback failed s) :=
  (Acts.of_clock (fun ok => ok.fallBack failed) (fun held => by cases hh.symm.trans held) le_rfl fun _ he => he).trans
    (.of_notice _ (.inr (.inr rfl)))

theorem sourceFailed_acts (x : Source) (hh : s.held = false) : Acts s (sourceFailed x s) := by
  have raised : Acts s (raiseFault .timebase x.code s) := raiseFault_acts .timebase x.code s
  unfold sourceFailed
  dsimp only
  split
  · split
    · exact raised.trans (fallback_acts x (raised.held.trans hh))
    · exact raised
  · exact .refl s

theorem judgeRef_acts (r : Reference) (good : Bool) (hh : s.held = false) : Acts s (judgeRef r good s) := by
  have moved : Acts s { s with clock := s.clock.setRef r ((s.clock.ref r).judge good) } :=
    .of_setRef fun ok => (ok.ref r).judge good
  unfold judgeRef
  dsimp only
  split
  · exact moved.trans (sourceFailed_acts _ hh)
  · exact moved

theorem setLead_acts (r : Reference) (s : State) : Acts s (setLead r s) := by
  unfold setLead
  split
  · exact .of_clock (fun ⟨htime, hepoch, hsync, hbeacon, hxo, _, hrequested⟩ =>
      ⟨htime, hepoch, hsync, hbeacon, hxo, leadOf_range _, hrequested⟩) (fun _ => rfl) le_rfl fun _ he => he
  · exact .refl s

theorem mark_acts (r : Reference) (hh : s.held = false) : Acts s (mark r s) := by
  have marked : Acts s { s with
      clock := s.clock.setRef r { s.clock.ref r with reference := some s.now, watch := s.now + missingInterval } } := by
    refine .of_setRef fun ok => ?_
    obtain ⟨hcount, hstarting, hmisses, hqualified, -⟩ := ok.ref r
    exact ⟨hcount, hstarting, hmisses, hqualified, fun t ht => (Option.some.inj ht).ge⟩
  unfold mark
  dsimp only
  split
  · exact marked
  · exact (marked.trans (judgeRef_acts r true hh)).trans (setLead_acts r _)
  · exact marked.trans (judgeRef_acts r false hh)

theorem missing_acts (r : Reference) (hh : s.held = false) : Acts s (missing r s) := by
  refine Acts.trans (.of_setRef fun ok => ?_) (judgeRef_acts r false hh)
  obtain ⟨hcount, hstarting, hmisses, hqualified, -⟩ := ok.ref r
  exact ⟨hcount, hstarting, hmisses, hqualified, fun t ht => (Option.some_ne_none t ht.symm).elim⟩

/-- The XO's own state and count. -/
theorem Acts.of_xo {x : XoState} (h : s.clock.xo.count ≤ 65535 → x.count ≤ 65535) :
    Acts s { s with clock := { s.clock with xo := x } } :=
  .of_clock (fun ⟨htime, hepoch, hsync, hbeacon, hxo, hrest⟩ => ⟨htime, hepoch, hsync, hbeacon, h hxo, hrest⟩)
    (fun _ => rfl) le_rfl fun _ he => he

theorem XoState.windowEnd_count (x : XoState) (cycles : Nat) (h : x.count ≤ 65535) :
    (x.windowEnd cycles).count ≤ 65535 := by
  unfold windowEnd
  cases x.state with
  | starting | qualified => exact h
  | failed =>
    dsimp only
    split
    · exact Nat.zero_le _
    · exact h

end ClockActions

/-! ### The crossing engine's actions -/

section EngineActions

variable {s : State}

theorem openCrossing_acts {bib : Nat} (rec : RecordFields) (r : JudgedRead) (hrace : s.clock.epoch ≠ none)
    (room : s.engine.crossings.length < crossingCap) (hn : s.engine.find? bib = none) :
    Acts s (openCrossing bib rec r s) := by
  unfold openCrossing
  dsimp only
  have opened := (count_acts s r.feed .opened).trans (.of_engine
    (fun ok => Engine.Ok.open (c := openedCrossing bib rec r s.now s.engine.point.settleWindow (s.feed r.feed.other).waiting)
      ok hn room) id fun he => absurd he hrace)
  split
  · exact opened.trans (raiseFault_acts .crossingFull bib _)
  · exact opened

theorem placeRead_acts (bib : Nat) (rec : RecordFields) (r : JudgedRead) (hrace : s.clock.epoch ≠ none)
    (room : s.engine.crossings.length < crossingCap) : Acts s (placeRead bib rec r s) := by
  unfold placeRead
  split
  · exact (count_acts s r.feed .merged).trans (.of_engine (fun ok => ok.replace _) id fun he => absurd he hrace)
  · rename_i hn
    split
    · exact count_acts s r.feed .stray
    · split
      · exact count_acts s r.feed .excess
      · exact openCrossing_acts rec r hrace room hn

theorem judgeRunner_acts (bib : Nat) (rec : RecordFields) (r : JudgedRead) (raceNow : Nat) (hrace : s.clock.epoch ≠ none)
    (room : s.engine.crossings.length < crossingCap) : Acts s (judgeRunner bib rec r raceNow s) := by
  unfold judgeRunner
  split
  · exact holdRead_acts r _ hrace
  · split
    · exact count_acts s r.feed .withdrawn
    · split
      · exact count_acts s r.feed .future
      · split
        · exact holdRead_acts r _ hrace
        · split
          · exact count_acts s r.feed .beforeGun
          · exact placeRead_acts bib rec r hrace room

/-- A read is judged in a running race, with a free entry in the open crossing table. -/
theorem judge_acts (r : JudgedRead) (raceNow : Nat) (hrace : s.clock.epoch ≠ none)
    (room : s.engine.crossings.length < crossingCap) : Acts s (judge r raceNow s) := by
  unfold judge
  split
  · exact count_acts s r.feed .barred
  · exact holdRead_acts r _ hrace
  · rename_i b _
    have hrace' : (readChecked b s).2.clock.epoch ≠ none := by rwa [readChecked_clock]
    have room' : (readChecked b s).2.engine.crossings.length < crossingCap := by rwa [readChecked_engine]
    dsimp only
    split
    · exact (readChecked_acts b s).trans (holdRead_acts r _ hrace')
    · exact (readChecked_acts b s).trans (judgeRunner_acts b _ r raceNow hrace' room')

/-- The oldest read leaves a feed's queue. -/
theorem Acts.of_dequeue {x : Feed} {oldest : Read} {rest : List Read} (h : (s.feed x).queue = oldest :: rest) :
    Acts s (s.setFeed x { s.feed x with queue := rest }) := by
  refine .of_setFeed (fun ⟨hlen, hlink⟩ => ⟨?_, hlink⟩) fun _ hn => by cases h.symm.trans hn
  rw [h] at hlen
  exact (Nat.le_succ _).trans hlen

/-- A take removes the oldest read of one queue. -/
theorem takeFrom_acts {turn : Turn} {r : JudgedRead} {t : State} (h : takeFrom s turn = some (r, t)) :
    Acts s t ∧ t.clock = s.clock ∧ t.engine = s.engine := by
  cases turn with
  | feedA =>
    cases hq : s.feeds.a.queue <;> simp only [takeFrom, hq] at h <;> cases h
    exact ⟨.of_dequeue (x := .a) hq, rfl, rfl⟩
  | feedB =>
    cases hq : s.feeds.b.queue <;> simp only [takeFrom, hq] at h <;> cases h
    exact ⟨.of_dequeue (x := .b) hq, rfl, rfl⟩
  | release =>
    cases hq : s.hold.release <;> simp only [takeFrom, hq] at h <;> cases h
    refine ⟨.of_hold (fun ⟨hlen, hchips, hrelease, hflag⟩ => ⟨hlen, hchips, ?_, hflag⟩) id
      fun _ _ hn => (by cases hq.symm.trans hn), rfl, rfl⟩
    rw [hq] at hrelease
    exact (Nat.le_succ _).trans hrelease

theorem arbiterTake_acts {r : JudgedRead} {t : State} (h : arbiterTake s = some (r, t)) :
    Acts s t ∧ t.clock = s.clock ∧ t.engine.crossings = s.engine.crossings := by
  obtain ⟨turn, hturn⟩ : ∃ turn, (takeFrom s turn).map (fun x => (x.1, { x.2 with engine := { x.2.engine with
      nextTurn := turn.next } })) = some (r, t) := by
    simp only [arbiterTake, Option.or_eq_some_iff] at h
    obtain h | ⟨-, h | ⟨-, h⟩⟩ := h <;> exact ⟨_, h⟩
  obtain ⟨⟨r', t'⟩, htake, heq⟩ := Option.map_eq_some_iff.mp hturn
  cases heq
  obtain ⟨took, same_clock, same_engine⟩ := takeFrom_acts htake
  have same_crossings : t'.engine.crossings = s.engine.crossings := by rw [same_engine]
  exact ⟨took.trans (.of_engine id id fun _ => id), same_clock, same_crossings⟩

theorem nextJudgement_acts {t : State} (h : nextJudgement s = some t) : Acts s t := by
  unfold nextJudgement at h
  split at h
  · cases h
  · rename_i hfree
    split at h
    · rename_i now r t' hnow htake
      cases h
      obtain ⟨took, same_clock, same_crossings⟩ := arbiterTake_acts htake
      refine took.trans (judge_acts r now ?_ ?_)
      · rw [same_clock]
        intro hn
        cases (State.raceNow?_unset hn).symm.trans hnow
      · rw [same_crossings]
        simp only [Bool.or_eq_true, decide_eq_true_eq, not_or] at hfree
        exact Nat.not_le.mp hfree.2
    · cases h

theorem settleCrossing_acts (c : OpenCrossing) (raceNow : Nat) (s : State) : Acts s (settleCrossing c raceNow s) := by
  refine (post_acts c.input raceNow s).trans (.of_engine (fun ok => ok.free c.bib) id fun _ hx => ?_)
  rw [Engine.free, hx]
  rfl

end EngineActions

end Sys2Proof.Machine
end

section
/-! SUPPORT. What a page and the return of held reads at a warm restart keep (O53 to O59). -/

namespace Sys2Proof.Machine

/-! ### The rotation of the board -/

section RotationRange

variable {b : Board}

theorem Board.SlotOk.lt (h : b.SlotOk) : b.slot < b.rotation.length := by
  obtain ⟨x, hx, -⟩ := (Option.any_eq_true _ _).mp h
  exact (List.getElem?_eq_some_iff.mp hx).1

/-- A slot of the list at which no page has been counted. -/
theorem Board.slotOk_of_no_page (hr : RotationOk b.rotation) (hs : b.slot < b.rotation.length) (hp : b.pageCount = 0) :
    b.SlotOk := by
  have hold : 1 ≤ (b.rotation[b.slot]).hold := (hr.2.2 _ (List.getElem_mem hs)).1
  rw [SlotOk, List.getElem?_eq_getElem hs, Option.any_some, decide_eq_true_eq, hp]
  exact hold

theorem Board.advance_slot_lt (hs : b.slot < b.rotation.length) : b.advance.slot < b.rotation.length := by
  have hpos : 0 < b.rotation.length := (Nat.zero_le _).trans_lt hs
  unfold advance
  cases hf : b.slotsAfter.find? b.eligible with
  | none => exact hs
  | some i =>
    obtain ⟨n, -, rfl⟩ := List.mem_map.mp (List.mem_of_find?_eq_some hf)
    exact Nat.mod_lt _ hpos

theorem Board.advance_inRange (hset : BoardOk b.settings = true) (hr : RotationOk b.rotation)
    (hs : b.slot < b.rotation.length) : b.advance.InRange :=
  ⟨hset, hr, slotOk_of_no_page (b := b.advance) hr (advance_slot_lt hs) rfl⟩

theorem Board.InRange.advance (h : b.InRange) : b.advance.InRange := advance_inRange h.1 h.2.1 h.2.2.lt

/-- A page changes the lanes and the banner count alone. -/
theorem composeSlot_keeps (kind : SlotKind) (s : State) (b : Board) :
    (composeSlot kind s b).1.settings = b.settings ∧ (composeSlot kind s b).1.rotation = b.rotation ∧
      (composeSlot kind s b).1.slot = b.slot ∧ (composeSlot kind s b).1.pageCount = b.pageCount := by
  cases kind with
  | leaders | featured | flow | clock => exact ⟨rfl, rfl, rfl, rfl⟩

theorem laneAfter_length_le (rows dwell : Nat) (lane : List BoardPosting) :
    (laneAfter rows dwell lane).length ≤ lane.length := by
  have shown := (((lane.take rows).map (fun x => { x with shows := x.shows + 1 })).length_filter_le
    (fun x => decide (x.shows < dwell)))
  rw [List.length_map, List.length_take] at shown
  rw [laneAfter, List.length_append, List.length_drop]
  omega

theorem Board.LanesOk.composeSlot (h : b.LanesOk) (kind : SlotKind) (s : State) : (composeSlot kind s b).1.LanesOk := by
  obtain ⟨hlead, hfeat, hflow, hbanner⟩ := h
  cases kind with
  | leaders => exact ⟨(laneAfter_length_le _ _ _).trans hlead, hfeat, hflow, hbanner⟩
  | featured => exact ⟨hlead, (laneAfter_length_le _ _ _).trans hfeat, hflow, hbanner⟩
  | flow => exact ⟨hlead, hfeat, (laneAfter_length_le _ _ _).trans hflow, Nat.zero_le _⟩
  | clock => exact ⟨hlead, hfeat, hflow, hbanner⟩

theorem Board.LanesOk.countPage (h : b.LanesOk) (hold : Nat) : (b.countPage hold).LanesOk := by
  unfold Board.countPage closePage
  split <;> exact h

/-- Counting a page leaves the page count below the hold count of the slot it stands at (R116). -/
theorem Board.InRange.countPage {x : Slot} (h : b.InRange) (hx : b.rotation[b.slot]? = some x) :
    (b.countPage x.hold).InRange := by
  obtain ⟨hset, hr, hslot⟩ := h
  have below : b.pageCount < x.hold := by simpa only [SlotOk, hx, Option.any_some, decide_eq_true_eq] using hslot
  unfold Board.countPage closePage
  split
  · exact advance_inRange hset hr hslot.lt
  · rename_i hne
    refine ⟨hset, hr, ?_⟩
    simp only [SlotOk, hx, Option.any_some, decide_eq_true_eq]
    exact Nat.lt_of_le_of_ne below hne

theorem rotationPage_keeps_of_eligible {s : State} (he : s.board.eligible s.board.slot = true) :
    (s.board.LanesOk → (rotationPage s).1.LanesOk) ∧ (s.board.InRange → (rotationPage s).1.InRange) := by
  obtain ⟨x, hx⟩ : ∃ x, s.board.rotation[s.board.slot]? = some x := by
    refine Option.ne_none_iff_exists'.mp fun hn => ?_
    rw [Board.eligible, hn] at he
    cases he
  rw [rotationPage_of_eligible hx he]
  obtain ⟨same_settings, same_rotation, same_slot, same_count⟩ := composeSlot_keeps x.kind s s.board
  refine ⟨fun h => (h.composeSlot x.kind s).countPage x.hold, fun h => Board.InRange.countPage ?_ ?_⟩
  · simpa only [Board.InRange, Board.SlotOk, same_settings, same_rotation, same_slot, same_count] using h
  · rw [same_rotation, same_slot, hx]

/-- The page of the rotation keeps the lanes and the rotation in their ranges, with its fallback (R115) or without. -/
theorem rotationPage_keeps (s : State) :
    (s.board.LanesOk → (rotationPage s).1.LanesOk) ∧ (s.board.InRange → (rotationPage s).1.InRange) := by
  cases he : s.board.eligible s.board.slot with
  | true => exact rotationPage_keeps_of_eligible he
  | false =>
    cases ha : s.board.advance.eligible s.board.advance.slot with
    | true =>
      rw [rotationPage_of_advance he ha]
      obtain ⟨lanes, range⟩ := rotationPage_keeps_of_eligible (s := { s with board := s.board.advance }) ha
      exact ⟨lanes, fun h => range h.advance⟩
    | false =>
      rw [rotationPage_of_none he ha]
      exact ⟨id, Board.InRange.advance⟩

theorem page_acts {s : State} (hh : s.held = false) : Acts s { s with board := (composePage s).1 } := by
  unfold composePage
  split
  · exact .refl s
  · split
    · exact .refl s
    · obtain ⟨lanes, range⟩ := rotationPage_keeps s
      exact .of_board lanes range fun held => by cases hh.symm.trans held

end RotationRange

/-! ### The return of the release queue at a warm restart (R85) -/

section Return

/-- The hold unit in the course of the return: the list with the reads already returned ahead of it, `rest` still to come. -/
def State.returning (x : List HoldEntry × State) (rest : List ReleasedRead) : State :=
  { x.2 with hold := { x.2.hold with list := x.1 ++ x.2.hold.list, release := rest } }

theorem notice_with_hold (kind : Byte) (payload : List Byte) (s : State) (h : HoldUnit) :
    State.notice { s with hold := h } kind payload = { s.notice kind payload with hold := h } := by
  by_cases room : (s.port .c).notices < noticeCap
  · rw [notice_placed kind payload room]
    exact notice_placed (s := { s with hold := h }) kind payload room
  · rw [notice_full kind payload (Nat.not_lt.mp room)]
    exact notice_full (s := { s with hold := h }) kind payload (Nat.not_lt.mp room)

theorem capture_with_hold (set : FaultSet) (r : FaultRecord) (s : State) (h : HoldUnit) :
    capture set r { s with hold := h } = { capture set r s with hold := h } :=
  notice_with_hold _ _ { s with faults := { s.faults with record := some r, set := set } } h

/-- An occurrence of a fault does not look at the hold unit. -/
theorem raiseFault_with_hold (k : FaultKind) (detail : Nat) (s : State) (h : HoldUnit) :
    raiseFault k detail { s with hold := h } = { raiseFault k detail s with hold := h } := by
  cases hr : s.faults.record with
  | none =>
    rw [raiseFault_captures (s := { s with hold := h }) k detail hr, raiseFault_captures k detail hr]
    exact capture_with_hold _ _ s h
  | some r => simp only [raiseFault, hr, State.now]

theorem discardHold_eq (x : Feed) (chip : Nat) (s : State) :
    discardHold x chip s =
      { raiseFault .holdFull chip (s.count x .lost) with hold := { s.hold with holdOver := true } } :=
  raiseFault_with_hold .holdFull chip (s.count x .lost) _

theorem returning_discard (returned : List HoldEntry) (u : State) (x : Feed) (chip : Nat) (rest : List ReleasedRead) :
    State.returning (returned, discardHold x chip u) rest = discardHold x chip (State.returning (returned, u) rest) := by
  have same_fault := raiseFault_with_hold .holdFull chip (u.count x .lost)
    { u.hold with list := returned ++ u.hold.list, release := rest }
  rw [discardHold_eq, discardHold_eq]
  exact congrArg (fun v : State => { v with hold := ⟨returned ++ u.hold.list, rest, true, u.hold.timeout⟩ }) same_fault.symm

theorem returnRead_release (x : List HoldEntry × State) (r : ReleasedRead) :
    (returnRead x r).2.hold.release = x.2.hold.release := by
  unfold returnRead
  dsimp only
  split
  · rfl
  · split
    · rfl
    · rw [discardHold_eq]

theorem returnReads_release (reads : List ReleasedRead) (x : List HoldEntry × State) :
    (reads.foldl returnRead x).2.hold.release = x.2.hold.release := by
  induction reads generalizing x with
  | nil => rfl
  | cons r rest ih => rw [List.foldl_cons, ih, returnRead_release]

/-- Every read that returns is merged, placed or discarded. While one is still to come a race is RUNNING. -/
theorem returnRead_acts (x : List HoldEntry × State) (r : ReleasedRead) (rest : List ReleasedRead) :
    Acts (State.returning x (r :: rest)) (State.returning (returnRead x r) rest) := by
  obtain ⟨returned, u⟩ := x
  have taken : Acts (State.returning (returned, u) (r :: rest)) (State.returning (returned, u) rest) :=
    .of_hold (fun ⟨hlist, hchips, hrelease, hflag⟩ => ⟨hlist, hchips, (Nat.le_succ _).trans hrelease, hflag⟩) id
      fun _ _ hn => nomatch hn
  unfold returnRead
  dsimp only
  split
  case isTrue =>
    have merged : State.returning (returned.map fun e => if e.chip = r.chip then e.rejoin r else e,
        { u with hold := { u.hold with list := u.hold.list.map fun e => if e.chip = r.chip then e.rejoin r else e } }) rest
        = { State.returning (returned, u) rest with hold := { u.hold with
            list := (returned ++ u.hold.list).map fun e => if e.chip = r.chip then e.rejoin r else e
            release := rest } } := by
      rw [List.map_append]
      rfl
    rw [merged]
    refine taken.trans (.of_hold (fun ok => ok.map fun e => ?_) id fun _ hl hr => ⟨List.map_eq_nil_iff.mpr hl, hr⟩)
    split <;> rfl
  case isFalse unlisted =>
    split
    case isTrue room =>
      have behind : (returned ++ [r.entry u.now] ++ u.hold.list).Perm (r.entry u.now :: (returned ++ u.hold.list)) := by
        rw [List.append_assoc]
        exact List.perm_middle
      have new_chip : r.chip ∉ (returned ++ u.hold.list).map HoldEntry.chip := by simpa using unlisted
      refine .of_hold (fun ⟨_, hchips, hrelease, _⟩ => ⟨?_, ?_, (Nat.le_succ _).trans hrelease, fun hn => ?_⟩) id
        fun _ _ hn => nomatch hn
      · exact behind.length_eq.trans_le room
      · exact (behind.map HoldEntry.chip).nodup_iff.mpr (List.nodup_cons.mpr ⟨new_chip, hchips⟩)
      · exact absurd hn (by simp)
    case isFalse full =>
      rw [returning_discard]
      refine taken.trans (discardHold_acts r.feed r.chip fun hn => full ?_)
      rw [show returned ++ u.hold.list = [] from hn]
      decide

theorem returnReads_acts (reads : List ReleasedRead) (x : List HoldEntry × State) :
    Acts (State.returning x reads) (State.returning (reads.foldl returnRead x) []) := by
  induction reads generalizing x with
  | nil => exact .refl _
  | cons r rest ih => exact (returnRead_acts x r rest).trans (ih _)

/-- The hold unit before the first read returns: every entry kept has a fresh entered at (R85). -/
def State.beforeReturn (s : State) : List HoldEntry × State :=
  ([], { s with hold := { s.hold with list := s.hold.list.map (fun e => { e with enteredAt := s.now }), release := [] } })

theorem restartHold_eq (s : State) :
    restartHold s = State.returning (s.hold.release.foldl returnRead s.beforeReturn) [] := by
  have none_left : (s.hold.release.foldl returnRead s.beforeReturn).2.hold.release = [] := returnReads_release _ _
  change (match s.hold.release.foldl returnRead s.beforeReturn with
    | (returned, t) => ({ t with hold := { t.hold with list := returned ++ t.hold.list } } : State)) = _
  generalize s.hold.release.foldl returnRead s.beforeReturn = x at none_left
  exact congrArg (fun q => ({ x.2 with hold := { x.2.hold with list := x.1 ++ x.2.hold.list, release := q } } : State)) none_left

theorem restartHold_acts (s : State) : Acts s (restartHold s) := by
  have fresh : Acts s (State.returning s.beforeReturn s.hold.release) :=
    .of_hold (fun ok => ok.map fun _ => rfl) id fun _ hl hr => ⟨List.map_eq_nil_iff.mpr hl, hr⟩
  rw [restartHold_eq]
  exact fresh.trans (returnReads_acts _ _)

end Return

end Sys2Proof.Machine
end

section
/-! SUPPORT. What the ports' own events and an answer keep (O53 to O59). -/

namespace Sys2Proof.Machine

/-! ### The ports (10) -/

section PortBounds

variable {ps : PortState} {bound : Nat}

theorem PortState.Ok.discard (h : ps.Ok bound) : ps.discard.Ok bound := by
  obtain ⟨hbuffer, hanswers, hwork, hnotices, -⟩ := h
  exact ⟨hbuffer, hanswers, hwork, hnotices, Nat.min_le_left _ _⟩

theorem PortState.Ok.withLine (h : ps.Ok bound) (line : List Byte) (at_ : Nat) :
    ({ ps with line := line, lastByteAt := at_ } : PortState).Ok bound := h

theorem PortState.Ok.cutFrame (h : ps.Ok bound) : ps.cutFrame.Ok bound := by
  unfold PortState.cutFrame
  split
  · exact h
  · exact (h.withLine [] ps.lastByteAt).discard

theorem PortState.Ok.receive (h : ps.Ok bound) (bytes : List Byte) (now : Nat) : (ps.receive bytes now).Ok bound := by
  by_cases hb : bytes = []
  · rwa [hb, receive_nil]
  · cases hg : ps.gap now with
    | false => exact receive_joins hb hg ▸ h.withLine _ now
    | true => exact receive_after_gap hb hg ▸ (h.withLine (hunt bytes) now).discard

theorem PortState.Ok.join (h : ps.Ok bound) (f : Frame) : (ps.join f).Ok bound := by
  unfold PortState.join
  split
  · rename_i room
    obtain ⟨-, hrest⟩ := h
    exact ⟨by rw [List.length_append]; exact room, hrest⟩
  · exact h.discard

theorem PortState.Ok.sent {x : TxFrame} {rest : List TxFrame} (h : ps.Ok bound) (ht : ps.tx = x :: rest) :
    ({ ps with tx := rest } : PortState).Ok bound := by
  obtain ⟨hbuffer, hanswers, hwork, hnotices, hdiscards⟩ := h
  have shorter : rest.Sublist ps.tx := ht ▸ List.sublist_cons_self x rest
  have answers_le : ({ ps with tx := rest } : PortState).answers ≤ ps.answers := (shorter.filter _).length_le
  have notices_le : ({ ps with tx := rest } : PortState).notices ≤ ps.notices := (shorter.filter _).length_le
  exact ⟨hbuffer, answers_le.trans hanswers, fun hw => answers_le.trans_lt (hwork hw), notices_le.trans hnotices, hdiscards⟩

/-- An answer, which is no notice, is placed where fewer than 4 wait and no request is in work. -/
theorem PortState.Ok.answered {f : Frame} (h : ps.Ok bound) (last : Bool) (hf : (⟨f, last⟩ : TxFrame).isNotice = false)
    (room : ps.answers < answerCap) (hw : ps.inWork = none) : (ps.place f last).Ok bound := by
  obtain ⟨hbuffer, -, -, hnotices, hdiscards⟩ := h
  have one_more : (ps.place f last).answers = ps.answers + 1 := by
    simp [place, answers, List.filter_append, hf]
  have same_notices : (ps.place f last).notices = ps.notices := by
    simp [place, notices, List.filter_append, hf]
  refine ⟨hbuffer, one_more.trans_le room, fun hs => ?_, same_notices.trans_le hnotices, hdiscards⟩
  rw [place, hw] at hs
  cases hs

theorem PortState.Ok.restart (h : ps.Ok bound) : ps.restart.Ok bound :=
  ⟨Nat.zero_le _, Nat.zero_le _, nofun, Nat.zero_le _, h.2.2.2.2⟩

end PortBounds

section PortSteps

variable {s : State} {p : Port}

theorem Steps.of_setPort {ps : PortState} (h : ∀ bound, (s.port p).Ok bound → ps.Ok bound) : Steps s (s.setPort p ps) where
  toKept := { (Steps.refl s).toKept with
    ports := fun ⟨ha, hb, hc, hd⟩ => by
      cases p with
      | a => exact ⟨h _ ha, hb, hc, hd⟩
      | b => exact ⟨ha, h _ hb, hc, hd⟩
      | c => exact ⟨ha, hb, h _ hc, hd⟩
      | d => exact ⟨ha, hb, hc, h _ hd⟩ }
  time := .refl s

/-- The feed's intake hears of an arrival (R23). -/
theorem refreshLink_acts (s : State) (p : Port) : Acts s (s.refreshLink p) := by
  unfold State.refreshLink
  split
  · exact updateFeed_acts (fun ⟨hlen, _⟩ => ⟨hlen, fun _ => rfl⟩) rfl
  · exact .refl s

theorem arrive_steps (p : Port) (f : Frame) (rest : List Byte) (s : State) : Steps s (arrive p f rest s) :=
  (refreshLink_acts s p).toSteps.trans (.of_setPort fun _ ok => PortState.Ok.join (ok.withLine (hunt rest) _) f)

theorem discardFrame_steps (p : Port) (s : State) : Steps s (s.setPort p (s.port p).discardFrame) :=
  .of_setPort fun _ ok => PortState.Ok.discard (ok.withLine _ _)

theorem receive_steps (p : Port) (bytes : List Byte) (s : State) : Steps s (s.setPort p ((s.port p).receive bytes s.now)) :=
  .of_setPort fun _ ok => ok.receive bytes s.now

theorem settleLine_steps (p : Port) (n : Nat) (s : State) : Steps s (settleLine p n s) :=
  settleLine_induct (Steps s) (fun u f rest h => h.trans (arrive_steps p f rest u))
    (fun u h => h.trans (discardFrame_steps p u)) n (.refl s)

end PortSteps

/-! ### Requests, taken and answered -/

section Requests

variable {s : State} {p : Port} {f : Frame} {rest : List Frame}

theorem taken_steps (h : s.Asks p f rest) : Steps s (s.taken p rest) := by
  obtain ⟨-, -, -, hb⟩ := h
  refine .of_setPort fun _ ok => ?_
  obtain ⟨hbuffer, hrest⟩ := ok
  rw [hb] at hbuffer
  exact ⟨(Nat.le_succ _).trans hbuffer, hrest⟩

/-- The port that has taken a request stands ready for the answer. -/
theorem taken_ready (h : s.Asks p f rest) :
    ((s.taken p rest).port p).inWork = none ∧ ((s.taken p rest).port p).answers < answerCap := by
  obtain ⟨-, hw, room, -⟩ := h
  rw [State.taken, setPort_port_same]
  exact ⟨hw, room⟩

/-- Notices leave a port as ready as it was. -/
theorem Acts.port_ready {u v : State} (h : Acts u v) (hw : (u.port p).inWork = none) (room : (u.port p).answers < answerCap) :
    (v.port p).inWork = none ∧ (v.port p).answers < answerCap := by
  obtain ⟨-, same_work, same_answers⟩ := h.announced.get p
  exact ⟨same_work.trans hw, same_answers.trans_lt room⟩

theorem answer_steps {u : State} {a : Frame} (last : Bool) (ha : (⟨a, last⟩ : TxFrame).isNotice = false)
    (h : (u.port p).inWork = none ∧ (u.port p).answers < answerCap) : Steps u (u.answer p a last) :=
  .of_setPort fun _ ok => ok.answered last ha h.2 h.1

theorem ifDue_steps {due : Bool} {t u : State} (hs : ifDue due s t = .next u) (h : due = true → Steps s t) : Steps s u := by
  unfold ifDue at hs
  split at hs <;> cases hs
  · exact h (by assumption)
  · exact .refl s

end Requests

end Sys2Proof.Machine
end

section
/-! SUPPORT. What each accepted request keeps (O53 to O59), one lemma a request. -/

namespace Sys2Proof.Machine

/-! ### Accepted requests, block by block -/

section Accepted

variable {s t : State} {x : List Byte}

theorem report_acts {f : Feed} {r : Layout.Report} (h : report f r s = .ok (t, x)) : Acts s t := by
  obtain ⟨e, queue, he, hlen, rfl⟩ := report_ok h
  exact .of_setFeed (fun ⟨_, hlink⟩ => ⟨hlen, hlink⟩) fun hn => by cases hn.symm.trans he

theorem matState_acts {f : Feed} {code : Nat} (h : matState f code s = .ok (t, x)) : Acts s t := by
  obtain ⟨m, rfl⟩ := matState_ok h
  exact updateFeed_acts id rfl

theorem loadOnes_keep (rs : List Layout.LoadRecord) (d : Directory) :
    (d.Canonical → (rs.foldl loadOne d).Canonical) ∧ (d.AliasOk → (rs.foldl loadOne d).AliasOk) := by
  induction rs generalizing d with
  | nil => exact ⟨id, id⟩
  | cons r rest ih =>
    obtain ⟨canonical, alias_⟩ := ih (loadOne d r)
    exact ⟨fun h => canonical (h.write _ _), alias_⟩

theorem Acts.of_mark (which : HoldEntry → Bool) : Acts s { s with hold := s.hold.mark which } :=
  .of_hold (fun ok => ok.mark which) id fun _ hl hr => ⟨List.map_eq_nil_iff.mpr hl, hr⟩

theorem Acts.of_remove (chip : Nat) : Acts s { s with hold := s.hold.remove chip } := by
  refine .of_hold (fun ok => ok.remove chip) (fun h => ?_) fun _ hl hr => ⟨?_, ?_⟩
  · rwa [HoldUnit.remove_timeout]
  · rw [HoldUnit.remove_list, hl, List.filter_nil]
  · rw [HoldUnit.remove_release, hr]

theorem runnerLoad_acts {rs : List Layout.LoadRecord} (h : runnerLoad rs s = .ok (t, x)) : Acts s t := by
  obtain ⟨-, rfl⟩ := runnerLoad_ok h
  obtain ⟨canonical, alias_⟩ := loadOnes_keep rs s.dir
  have loaded : Acts s { s with dir := rs.foldl loadOne s.dir } := .of_dir canonical alias_
  exact loaded.trans (.of_mark _)

theorem runnerRead_acts {bib : Nat} (h : runnerRead bib s = .ok (t, x)) : Acts s t := by
  obtain ⟨-, rfl⟩ := runnerRead_ok h
  exact readChecked_acts bib s

/-- The map of chip codes changes, the tables of the directory do not. -/
theorem Acts.of_writeAlias {chip bib : Nat} (hc : maxBib < chip) (hb : bib ≤ maxBib) :
    Acts s { s with dir := (s.dir.writeAlias chip bib).2 } :=
  .of_dir (fun ok => by rw [Directory.writeAlias_keeps]; exact ok) fun ok => ok.writeAlias hc hb

theorem aliasSet_acts {r : Nat × Nat} (h : aliasSet r s = .ok (t, x)) : Acts s t := by
  obtain ⟨hc, hb, rfl⟩ := aliasSet_ok h
  exact .of_writeAlias hc hb

theorem aliasClear_acts {chip : Nat} (h : aliasClear chip s = .ok (t, x)) : Acts s t := by
  rw [aliasClear_ok h]
  exact .of_dir id fun ok => ok.clear _

theorem waveStart_acts {r : Nat × Option Nat} (h : waveStart r s = .ok (t, x)) : Acts s t := by
  obtain ⟨gun, rfl⟩ := waveStart_ok h
  have started : Acts s { s with dir := s.dir.startWave r.1 gun } := .of_dir (fun ok => ok.startWave r.1 gun) id
  exact started.trans (.of_mark _)

theorem waveSet_acts {r : Nat × Nat} (h : waveSet r s = .ok (t, x)) : Acts s t := by
  rw [waveSet_ok h]
  exact .of_dir (fun ok => ok.startWave _ _) id

theorem pointSet_acts {p : PointSettings} (h : pointSet p s = .ok (t, x)) : Acts s t := by
  obtain ⟨ok, rfl⟩ := pointSet_ok h
  exact .of_engine id (fun _ => ok) fun _ => id

theorem Acts.of_resolveWrite {chip bib : Nat} (hb : bib ≤ maxBib) :
    Acts s { s with dir := (resolveWrite chip bib s.dir).2 } := by
  unfold resolveWrite
  split
  · exact .of_writeAlias (by assumption) hb
  · exact .refl s

/-- The bib of an accepted ADMIT is in range (R75). -/
theorem resolveRefusal_none_bib {r : Layout.Resolve} (h : resolveRefusal r s = none) (h1 : r.resolution ≠ 1) :
    r.bib ≤ maxBib := by
  have in_range : ¬ resolveRange r = true := fun hr => by cases (resolveRefusal_range hr).symm.trans h
  rw [resolveRange_iff] at in_range
  unfold maxBib
  omega

theorem holdResolve_acts {r : Layout.Resolve} (h : holdResolve r s = .ok (t, x)) : Acts s t := by
  obtain ⟨accepted, ⟨h1, rfl⟩ | ⟨-, e, -, rfl⟩⟩ := holdResolve_ok h
  · exact (Acts.of_resolveWrite (resolveRefusal_none_bib accepted h1)).trans (.of_mark _)
  · have counted : Acts s (s.count e.feed .barred) := count_acts s e.feed .barred
    exact counted.trans ((Acts.of_resolveWrite (Nat.zero_le _)).trans (.of_remove r.chip))

theorem holdTimeoutSet_acts {minutes : Nat} (h : holdTimeoutSet minutes s = .ok (t, x)) : Acts s t := by
  obtain ⟨hm, rfl⟩ := holdTimeoutSet_ok h
  exact .of_hold id (fun _ => hm) fun _ hl hr => ⟨hl, hr⟩

theorem boardSet_acts {b : BoardSettings} (hh : s.held = false) (h : boardSet b s = .ok (t, x)) : Acts s t := by
  obtain ⟨ok, rfl⟩ := boardSet_ok h
  exact .of_board id (fun ⟨_, hrest⟩ => ⟨ok, hrest⟩) fun held => by cases hh.symm.trans held

theorem patternSet_acts {n : Nat} (h : patternSet n s = .ok (t, x)) : Acts s t := by
  obtain ⟨-, rfl⟩ := patternSet_ok h
  exact .of_board id id fun _ => ⟨rfl, rfl⟩

/-- The slots of an accepted list are those sent, and their hold counts are not 0. -/
theorem allSome_slotOf {sent : List (Nat × Nat)} {slots : List Slot} (h : Layout.allSome (sent.map slotOf) = some slots) :
    slots.length = sent.length ∧ ∀ y ∈ slots, 1 ≤ y.hold ∧ ∃ e ∈ sent, y.hold = e.2 := by
  induction sent generalizing slots with
  | nil =>
    cases h
    exact ⟨rfl, nofun⟩
  | cons e rest ih =>
    simp only [List.map_cons, Layout.allSome] at h
    split at h
    · rename_i y ys hy hys
      cases h
      obtain ⟨hlen, hall⟩ := ih hys
      unfold slotOf at hy
      split at hy
      · cases hy
      · rename_i hpos
        obtain ⟨k, -, rfl⟩ := Option.map_eq_some_iff.mp hy
        refine ⟨congrArg Nat.succ hlen, List.forall_mem_cons.mpr ⟨⟨Nat.one_le_iff_ne_zero.mpr hpos, e, by simp⟩, ?_⟩⟩
        intro z hz
        obtain ⟨hz1, e', he', hz'⟩ := hall z hz
        exact ⟨hz1, e', List.mem_cons_of_mem _ he', hz'⟩
    · cases h

theorem leNat_lt (bytes : List Byte) : leNat bytes < 256 ^ bytes.length := by
  induction bytes with
  | nil => decide
  | cons b rest ih =>
    have hb := b.isLt
    rw [leNat, List.length_cons, pow_succ]
    omega

theorem fieldAt_lt (n at_ : Nat) (pl : List Byte) : fieldAt n at_ pl < 256 ^ n :=
  (leNat_lt _).trans_le (Nat.pow_le_pow_right (by decide) (List.length_take_le _ _))

/-- A hold count is sent in one byte. -/
theorem layout_rotationSet_lt {pl : List Byte} {sent : List (Nat × Nat)} (h : Layout.rotationSet pl = some sent) :
    ∀ e ∈ sent, e.2 < 256 := by
  unfold Layout.rotationSet at h
  split at h
  · cases h
  · cases h
    intro e he
    obtain ⟨bytes, -, rfl⟩ := List.mem_map.mp he
    exact fieldAt_lt 1 1 bytes

theorem rotationSet_acts {pl : List Byte} {sent : List (Nat × Nat)} (hh : s.held = false)
    (hl : Layout.rotationSet pl = some sent) (h : rotationSet sent s = .ok (t, x)) : Acts s t := by
  obtain ⟨slots, ⟨hpos, hmax⟩, hslots, rfl⟩ := rotationSet_ok h
  obtain ⟨hlen, hall⟩ := allSome_slotOf hslots
  have rotation : RotationOk slots := by
    refine ⟨hlen ▸ hpos, hlen ▸ hmax, fun y hy => ?_⟩
    obtain ⟨hy1, e, he, hye⟩ := hall y hy
    exact ⟨hy1, Nat.le_of_lt_succ (hye ▸ layout_rotationSet_lt hl e he)⟩
  exact .of_board id (fun ⟨hset, _⟩ => ⟨hset, rotation, Board.slotOk_of_no_page rotation rotation.1 rfl⟩)
    fun held => by cases hh.symm.trans held

theorem gunSet_acts {offset : Option Nat} (h : gunSet offset s = .ok (t, x)) : Acts s t := by
  obtain ⟨unset, off, -, rfl⟩ := gunSet_ok h
  exact .of_clock (fun ⟨htime, _, hrest⟩ => ⟨htime, fun e he => (Option.some.inj he) ▸ Nat.sub_le _ _, hrest⟩)
    (fun _ => rfl) le_rfl fun e he => by cases unset.symm.trans he

/-- A request for a source that is not current, or none. -/
theorem Acts.of_requested {requested : Option Source} (h : requested ≠ some s.clock.current) :
    Acts s { s with clock := { s.clock with requested := requested } } :=
  .of_clock (fun ⟨htime, hepoch, hsync, hbeacon, hxo, hlead, _⟩ => ⟨htime, hepoch, hsync, hbeacon, hxo, hlead, h⟩)
    (fun _ => rfl) le_rfl fun _ he => he

theorem clockSelect_acts {code : Nat} (h : clockSelect code s = .ok (t, x)) : Acts s t := by
  have cleared : Acts s { s with clock := { s.clock with requested := none } } := .of_requested nofun
  obtain rfl | ⟨payload, rfl⟩ | ⟨y, hy, rfl⟩ := clockSelect_ok h
  · exact cleared
  · exact cleared.trans (.of_notice payload (.inr (.inr rfl)))
  · exact .of_requested fun he => hy (Option.some.inj he)

/-- The lock, the flags and the targets of the timebase stand under no range. -/
theorem Acts.of_flags (lock clockFail failSafe : Bool) (target : StartTarget) (owed : Bool) :
    Acts s { s with clock := { s.clock with
      lock := lock, clockFail := clockFail, failSafe := failSafe, startTarget := target, fallbackDue := owed } } :=
  .of_clock id (fun _ => rfl) le_rfl fun _ he => he

theorem withdraw_acts {bib : Nat} (h : withdraw bib s = .ok (t, x)) : Acts s t := by
  have fewer (lane : List BoardPosting) {cap : Nat} (hl : lane.length ≤ cap) : (laneWithout bib lane).length ≤ cap :=
    (List.length_filter_le _ _).trans hl
  have cleared : Acts s { s with board := s.board.withdraw bib } :=
    .of_board (fun ⟨hlead, hfeat, hflow, hbanner⟩ => ⟨fewer _ hlead, fewer _ hfeat, fewer _ hflow, hbanner⟩) id
      fun _ => ⟨rfl, rfl⟩
  rw [withdraw_ok h]
  refine (Acts.of_split (fun ok => ok.write bib _) id (fun ok => ok.append _ _ _ _ _) cleared).trans
    (.of_engine (fun ok => ok.free bib) id fun _ hx => ?_)
  exact (congrArg (List.filter _) hx).trans List.filter_nil

theorem reinstate_acts {bib : Nat} (h : reinstate bib s = .ok (t, x)) : Acts s t := by
  rw [reinstate_ok h]
  exact Acts.of_split (fun ok => ok.write bib _) id (fun ok => ok.append _ _ _ _ _) (.refl s)

theorem amend_acts {r : Nat × Nat × Nat} (h : amend r s = .ok (t, x)) : Acts s t := by
  obtain ⟨-, rfl⟩ := amend_ok h
  have amended (bib pass chip pace : Nat) : Acts s { s with board := s.board.amend bib pass chip pace } := by
    refine .of_board (fun ⟨hlead, hfeat, hflow, hbanner⟩ => ⟨?_, ?_, ?_, hbanner⟩) id fun _ => ⟨rfl, rfl⟩
    · exact (List.length_map _).trans_le hlead
    · exact (List.length_map _).trans_le hfeat
    · exact (List.length_map _).trans_le hflow
  refine Acts.of_split (fun ok => ?_) (fun ok => ?_) (fun ok => ok.append _ _ _ _ _) (amended _ _ _ _)
  · split
    · exact ok.write _ _
    · exact ok
  · split <;> exact ok

theorem crossingEnter_acts {r : Nat × Nat} (h : crossingEnter r s = .ok (t, x)) : Acts s t := by
  obtain ⟨-, now, -, rfl⟩ := crossingEnter_ok h
  exact post_acts _ now s

theorem faultClear_acts {c : Layout.Clear} (h : faultClear c s = .ok (t, x)) : Acts s t := by
  obtain rfl | rfl := faultClear_ok h
  · exact releaseRecord_acts s
  · exact .of_faults id

theorem integritySet_acts {code : Nat} (h : integritySet code s = .ok (t, x)) : Acts s t := by
  obtain ⟨on, rfl⟩ := integritySet_ok h
  exact .of_dir id id

theorem beginStore_acts {a : Unit} (h : beginStore a s = .ok (t, x)) : Acts s t := by
  rw [beginStore_ok h]
  exact .of_setup fun ⟨hworking, hcoded, _⟩ => ⟨hcoded, fun w hw => (Option.some.inj hw) ▸ hworking⟩

end Accepted

end Sys2Proof.Machine
end

section
/-! SUPPORT. What is due, row by row: a line's event by what its bytes amount to, a request by the frame that its port takes;
what comes from outside is never due. -/

namespace Sys2Proof.Machine

/-- The row of a request is one of the request rows of its port. -/
theorem requestOf_mem (p : Port) (f : Frame) : requestOf p f ∈ requestRows p := by
  unfold requestOf
  split
  case h_14 | h_31 => split <;> simp [requestRows]
  all_goals simp [requestRows]

/-- What the bytes received on a line amount to is due, one event for each case. -/
theorem mem_lineDue {p : Port} {s : State} {c : Instr} :
    c ∈ lineDue p s ↔ ((∃ f rest, scan (s.port p).line = .arrived f rest) ∧ c = .frameArrival p [])
      ∨ (scan (s.port p).line = .badCrc ∧ c = .crcDiscard p []) ∨ (scan (s.port p).line = .badLength ∧ c = .lengthDiscard p [])
      ∨ ((scan (s.port p).line = .partialFrame ∧ gapDue p s = true) ∧ c = .gapExpiry p) := by
  unfold lineDue
  split <;> simp [*, mem_dueIf]

/-- A request is due exactly when its port takes it. -/
theorem mem_requestDue {p : Port} {s : State} {c : Instr} :
    c ∈ requestDue p s ↔ ∃ f rest, s.Asks p f rest ∧ requestOf p f = c := by
  unfold requestDue
  constructor
  · split
    · rename_i f t ht
      obtain ⟨rest, asks, -, -⟩ := takeFrame_some ht
      intro hc
      exact ⟨f, rest, asks, (List.mem_singleton.mp hc).symm⟩
    · exact nofun
  · rintro ⟨f, rest, asks, rfl⟩
    rw [takeFrame_of_asks asks rfl]
    exact List.mem_singleton_self _

theorem mem_requestRows_of_due {p : Port} {s : State} {c : Instr} (h : c ∈ requestDue p s) : c ∈ requestRows p := by
  obtain ⟨f, -, -, rfl⟩ := mem_requestDue.mp h
  exact requestOf_mem p f

/-- An event that no request makes is due by a line or by the part's own state. -/
theorem mem_dueEvents_unasked {s : State} {c : Instr} (hh : s.held = false) (hrow : ∀ q, c ∉ requestRows q) :
    c ∈ dueEvents s ↔ (∃ q, c ∈ lineDue q s)
      ∨ (writeDue s = true ∧ c = .setupWriteEnd) ∨ (s.restartDue = true ∧ c = .warmRestart .request)
      ∨ (deferredDue s = true ∧ c = .deferredFallback) ∨ (xoDue s = true ∧ c = .xoQualify)
      ∨ ((nextJudgement s).isSome = true ∧ c = .readJudgement)
      ∨ (∃ x ∈ s.engine.crossings, (dueCrossing x.bib s).isSome = true ∧ c = .deadlineExpiry x.bib)
      ∨ (∃ f, silenceDue f s = true ∧ c = .silenceExpiry f)
      ∨ (∃ e ∈ s.hold.list, (timedOutEntry e.chip s).isSome = true ∧ c = .holdTimeoutExpiry e.chip)
      ∨ ((moveDue s).isSome = true ∧ c = .releaseMove) ∨ (quietDue s = true ∧ c = .quietExpiry)
      ∨ (∃ r, missingDue r s = true ∧ c = .missingPeriod r)
      ∨ ((secondDue s && s.clock.readyRequest.isSome) = true ∧ c = .switchCompletion)
      ∨ (slewDue s = true ∧ c = .leadSlew) := by
  have unasked (q : Port) : c ∉ requestDue q s := fun hc => hrow q (mem_requestRows_of_due hc)
  simp only [mem_dueEvents hh, unasked, or_false]

/-- Cold reset comes from outside. -/
theorem coldReset_not_due (s : State) (a b : Bool) : Instr.coldReset a b ∉ dueEvents s := by
  cases hh : s.held with
  | true => simp [dueEvents_held hh]
  | false =>
    simp [mem_dueEvents_unasked hh (c := .coldReset a b) (by simp [requestRows]), mem_lineDue]

end Sys2Proof.Machine
end

section
/-! SUPPORT. When each event is due (O2, O4): one equivalence for each condition of the model. -/

namespace Sys2Proof.Machine

section Conditions

variable {s : State}

theorem gapDue_iff {p : Port} : gapDue p s = true ↔ s.held = false ∧
    (s.port p).line ≠ [] ∧ scan (s.port p).line = .partialFrame ∧ (s.port p).lastByteAt + 10 < s.now := by
  rw [gapDue, Bool.and_eq_true, Bool.not_eq_true', gap_iff]
  exact Iff.rfl

theorem raceNow?_isSome : s.raceNow?.isSome = s.clock.epoch.isSome := Option.isSome_map

theorem takeFrom_isSome {turn : Turn} : (takeFrom s turn).isSome = true ↔
    match turn with
    | .feedA => s.feeds.a.queue ≠ []
    | .feedB => s.feeds.b.queue ≠ []
    | .release => s.hold.release ≠ [] := by
  cases turn with
  | feedA | feedB | release => unfold takeFrom; dsimp only; split <;> simp [*]

theorem arbiterTake_isSome : (arbiterTake s).isSome = true ↔
    s.feeds.a.queue ≠ [] ∨ s.feeds.b.queue ≠ [] ∨ s.hold.release ≠ [] := by
  unfold arbiterTake
  cases s.engine.nextTurn with
  | feedA | feedB | release =>
    simp only [Turn.next, Option.isSome_or, Option.isSome_map, Bool.or_eq_true, takeFrom_isSome, or_assoc, or_comm, or_left_comm]

theorem nextJudgement_isSome : (nextJudgement s).isSome = true ↔ s.held = false ∧ s.clock.epoch.isSome = true ∧
    s.engine.crossings.length < 2048 ∧
    (s.feeds.a.queue ≠ [] ∨ s.feeds.b.queue ≠ [] ∨ s.hold.release ≠ []) := by
  have free : s.engine.crossings.length < 2048 ↔ ¬ crossingCap ≤ s.engine.crossings.length := Nat.not_le.symm
  rw [← arbiterTake_isSome, ← raceNow?_isSome, free]
  unfold nextJudgement
  simp only [Bool.or_eq_true, decide_eq_true_eq]
  split
  · rename_i stopped
    refine ⟨nofun, fun ⟨hh, _, hfree, _⟩ => ?_⟩
    obtain h | h := stopped
    · cases hh.symm.trans h
    · exact absurd h hfree
  · rename_i running
    obtain ⟨hh, hfree⟩ := not_or.mp running
    cases s.raceNow? with
    | none => simp
    | some now => cases arbiterTake s <;> simp [hh, hfree]

theorem dueCrossing_isSome {bib : Nat} : (dueCrossing bib s).isSome = true ↔ s.held = false ∧ s.clock.epoch.isSome = true ∧
    ∃ c, s.engine.find? bib = some c ∧ c.deadline ≤ s.now := by
  rw [← raceNow?_isSome]
  unfold dueCrossing
  cases s.held with
  | true => simp
  | false =>
    cases s.engine.find? bib with
    | none => simp
    | some c => cases s.raceNow? <;> simp

theorem silenceDue_iff {f : Feed} : silenceDue f s = true ↔ s.held = false ∧
    (s.feed f).link = .active ∧ ∃ t, (s.feed f).lastFrame = some t ∧ t + 5000 ≤ s.now := by
  unfold silenceDue
  cases (s.feed f).lastFrame with
  | none => simp
  | some t =>
    simp only [Bool.and_eq_true, decide_eq_true_eq]
    simp [silenceInterval, and_assoc]

theorem timedOutEntry_isSome {chip : Nat} : (timedOutEntry chip s).isSome = true ↔ s.held = false ∧
    ∃ e, s.hold.find? chip = some e ∧ e.releasing = false ∧ e.enteredAt + s.hold.timeout * 60000 ≤ s.now := by
  unfold timedOutEntry
  cases s.held with
  | true => simp
  | false => cases s.hold.find? chip <;> simp [HoldEntry.expired]

theorem moveDue_isSome : (moveDue s).isSome = true ↔ s.held = false ∧ s.hold.release.length < 64 ∧
    ∃ e ∈ s.hold.list, e.releasing = true := by
  have free : s.hold.release.length < 64 ↔ ¬ releaseCap ≤ s.hold.release.length := Nat.not_le.symm
  rw [free]
  unfold moveDue
  cases s.held with
  | true => simp
  | false => by_cases full : releaseCap ≤ s.hold.release.length <;> simp [full]

theorem quietDue_iff : quietDue s = true ↔ s.held = false ∧
    ∃ t, s.board.lastOffer = some t ∧ t + s.board.settings.quietInterval * 1000 ≤ s.now := by
  simp [quietDue, Option.any_eq_true]

theorem missingDue_iff {r : Reference} : missingDue r s = true ↔ s.held = false ∧ (s.clock.ref r).watch ≤ s.now := by
  simp [missingDue]

theorem xoDue_iff : xoDue s = true ↔ s.held = false ∧ s.clock.xo.state = .starting ∧ 65535 ≤ s.clock.xo.count := by
  simp [xoDue, and_assoc]

theorem wholeSecond_iff : wholeSecond s = true ↔ s.held = false ∧ s.now % 1000 = 0 ∧ s.clock.secondTaken ≠ s.now := by
  simp [wholeSecond, and_assoc]

theorem secondDue_iff : secondDue s = true ↔ s.held = false ∧ s.now % 1000 = 0 ∧ s.clock.secondTaken ≠ s.now ∧
    s.clock.fallbackDue = false := by
  simp [secondDue, wholeSecond_iff, and_assoc]

theorem Timebase.readyRequest_some {c : Timebase} {x : Source} :
    c.readyRequest = some x ↔ c.requested = some x ∧ c.sourceState x = .qualified := by
  simp [Timebase.readyRequest, Option.filter_eq_some_iff]

theorem Timebase.readyRequest_isSome {c : Timebase} :
    c.readyRequest.isSome = true ↔ ∃ x, c.requested = some x ∧ c.sourceState x = .qualified := by
  simp only [Option.isSome_iff_exists, Timebase.readyRequest_some]

theorem switchWaits_iff : switchWaits s = true ↔ s.held = false ∧ s.now % 1000 = 0 ∧ s.clock.secondTaken ≠ s.now ∧
    ∃ x, s.clock.requested = some x ∧ s.clock.sourceState x = .qualified := by
  simp [switchWaits, wholeSecond_iff, Timebase.readyRequest_isSome, and_assoc]

theorem deferredDue_iff : deferredDue s = true ↔ s.held = false ∧ s.clock.fallbackDue = true := by
  simp [deferredDue]

theorem slewDue_iff : slewDue s = true ↔ s.held = false ∧ ((0 < s.clock.lead ∧ s.clock.oscMs = 999) ∨
    (s.clock.lead < 0 ∧ 1000 ≤ s.clock.oscMs ∧ switchWaits s = false)) := by
  simp [slewDue, and_assoc]

theorem writeDue_iff : writeDue s = true ↔ (s.port .c).inWork.isSome = true ∧
    ∃ w, s.setup.writing = some w ∧ w.began + 40 ≤ s.now := by
  simp only [writeDue, Bool.and_eq_true, Option.any_eq_true, decide_eq_true_eq]
  exact and_comm

end Conditions

end Sys2Proof.Machine
end

section
/-! SUPPORT. The step on an empty queue, the commands that are not due, and that every command answers (O1 to O4). -/

namespace Sys2Proof.Machine

/-! ### Every command answers (O3) -/

section Answers

variable {s t : State}

theorem serve_answers {α : Type} (p : Port) (row : Frame → Bool) (layout : List Byte → Option α) (act : α → State → Reply)
    (s : State) : ∃ t, serve p row layout act s = .next t := by
  obtain h | ⟨_, _, _, _, h⟩ := serve_next s p row layout act <;> exact ⟨_, h⟩

theorem ifDue_answers (due : Bool) (s t : State) : ∃ u, ifDue due s t = .next u := by
  cases due with
  | true => exact ⟨t, rfl⟩
  | false => exact ⟨s, rfl⟩

theorem frameArrival_answers (p : Port) (bytes : List Byte) (s : State) : ∃ t, execFrameArrival p bytes s = .next t := by
  unfold execFrameArrival
  split
  · exact ⟨_, rfl⟩
  · dsimp only
    split <;> exact ⟨_, rfl⟩

theorem frameSent_answers (p : Port) (s : State) : ∃ t, execFrameSent p s = .next t := by
  unfold execFrameSent
  split
  · split <;> exact ⟨_, rfl⟩
  · exact ⟨_, rfl⟩

theorem requestOfNoKind_answers (p : Port) (s : State) : ∃ t, execRequestOfNoKind p s = .next t := by
  unfold execRequestOfNoKind
  split <;> exact ⟨_, rfl⟩

theorem setupStore_answers (p : Port) (s : State) : ∃ t, execSetupStore p s = .next t := by
  unfold execSetupStore
  split
  · exact ⟨_, rfl⟩
  · split <;> exact ⟨_, rfl⟩

theorem restart_answers (p : Port) (s : State) : ∃ t, execRestart p s = .next t := by
  unfold execRestart
  split
  · exact ⟨_, rfl⟩
  · split <;> exact ⟨_, rfl⟩

theorem setupWriteEnd_answers (s : State) : ∃ t, execSetupWriteEnd s = .next t := by
  unfold execSetupWriteEnd
  split
  · exact ifDue_answers _ _ _
  · exact ⟨_, rfl⟩

theorem deadlineExpiry_answers (bib : Nat) (s : State) : ∃ t, execDeadlineExpiry bib s = .next t := by
  unfold execDeadlineExpiry
  split <;> exact ⟨_, rfl⟩

theorem holdTimeoutExpiry_answers (chip : Nat) (s : State) : ∃ t, execHoldTimeoutExpiry chip s = .next t := by
  unfold execHoldTimeoutExpiry
  split <;> exact ⟨_, rfl⟩

theorem releaseMove_answers (s : State) : ∃ t, execReleaseMove s = .next t := by
  unfold execReleaseMove
  split <;> exact ⟨_, rfl⟩

theorem warmRestart_answers (cause : RestartCause) (s : State) : ∃ t, execWarmRestart cause s = .next t := by
  cases cause with
  | pulse | request => exact ifDue_answers _ _ _

theorem advanceTime_answers (n : Nat) (s : State) (f : Timebase → Timebase) :
    (∃ t, advanceTime n s f = .next t) ∨ advanceTime n s f = .fault .courseTimeEnds ∧ maxCourseTime < s.now + n := by
  unfold advanceTime
  split
  · exact .inl ⟨_, rfl⟩
  · rename_i beyond
    exact .inr ⟨rfl, Nat.lt_of_not_le beyond⟩

/-- Course time passes its last value in a slew of 1 ms alone (log entry 9). -/
theorem leadSlew_answers (s : State) :
    (∃ t, execLeadSlew s = .next t) ∨ execLeadSlew s = .fault .courseTimeEnds ∧ maxCourseTime ≤ s.now := by
  unfold execLeadSlew
  split
  · refine (advanceTime_answers _ s _).imp_right fun ⟨fault, beyond⟩ => ⟨fault, ?_⟩
    split at beyond <;> omega
  · exact .inl ⟨s, rfl⟩

theorem exec_answers (c : Instr) (s : State) :
    (∃ t, exec c s = .next t) ∨ (c = .leadSlew ∧ exec c s = .fault .courseTimeEnds ∧ maxCourseTime ≤ s.now) := by
  cases c with
  | leadSlew => exact (leadSlew_answers s).imp_right fun h => ⟨rfl, h⟩
  | frameArrival p bytes => exact .inl (frameArrival_answers p bytes s)
  | frameSent p => exact .inl (frameSent_answers p s)
  | requestOfNoKind p => exact .inl (requestOfNoKind_answers p s)
  | setupStore p => exact .inl (setupStore_answers p s)
  | setupWriteEnd => exact .inl (setupWriteEnd_answers s)
  | restart p => exact .inl (restart_answers p s)
  | deadlineExpiry bib => exact .inl (deadlineExpiry_answers bib s)
  | holdTimeoutExpiry chip => exact .inl (holdTimeoutExpiry_answers chip s)
  | releaseMove => exact .inl (releaseMove_answers s)
  | warmRestart cause => exact .inl (warmRestart_answers cause s)
  | readJudgement | coldReset | setupBlockChange => exact .inl ⟨_, rfl⟩
  | crcDiscard | lengthDiscard | framingError | gapExpiry | deferredFallback | silenceExpiry | quietExpiry | syncMark
  | missingPeriod | xoQualify | xoGap | comparisonWindowEnd | switchCompletion | recordUpset | resetRisingEdge =>
    exact .inl (ifDue_answers _ _ _)
  | report | matState | time | describe | page | runnerLoad | runnerRead | aliasSet | aliasClear | waveStart | waveSet
  | pointSet | holdsRead | holdResolveAdmit | holdResolveReject | holdTimeoutSet | splitsRead | boardSet | rotationSet
  | patternSet | gunSet | timeBeacon | clockSelect | clockLock | clockFailClear | clockSetup | withdraw | reinstate | amend
  | crossingEnter | faultRead | faultClearOrdinary | faultClearIntegrity | integritySet | statusRead =>
    exact .inl (serve_answers _ _ _ _ _)

end Answers

/-! ### Commands that are not due (O4) -/

section NotDue

variable {s t : State} {p : Port}

theorem ifDue_of_not {due : Bool} (h : ¬ due = true) : ifDue due s t = .next s := if_neg h

theorem ifDue_of_due {due : Bool} (h : due = true) : ifDue due s t = .next t := if_pos h

theorem takeFrame_none {row : Frame → Bool} (h : ∀ f rest, s.Asks p f rest → row f = false) : takeFrame p row s = none := by
  cases ht : takeFrame p row s with
  | none => rfl
  | some ft =>
    obtain ⟨rest, asks, hr, -⟩ := takeFrame_some ht
    exact absurd hr (by simp [h _ _ asks])

theorem requestOfNoKind_idle (h : ∀ f rest, s.Asks p f rest → Kind.requests.contains f.kind = true) :
    execRequestOfNoKind p s = .next s := by
  rw [execRequestOfNoKind, takeFrame_none fun f rest asks => by rw [h f rest asks]; rfl]

theorem setupStore_idle (h : ∀ f rest, s.Asks p f rest → ofKind Kind.setupStore f = false) :
    execSetupStore p s = .next s := by
  rw [execSetupStore, takeFrame_none h]

theorem restart_idle (h : ∀ f rest, s.Asks p f rest → ofKind Kind.restart f = false) : execRestart p s = .next s := by
  rw [execRestart, takeFrame_none h]

theorem readJudgement_idle (h : ¬ (nextJudgement s).isSome = true) : execReadJudgement s = .next s := by
  rw [execReadJudgement, Option.not_isSome_iff_eq_none.mp h, Option.getD_none]

theorem deadlineExpiry_idle {bib : Nat} (h : ¬ (dueCrossing bib s).isSome = true) : execDeadlineExpiry bib s = .next s := by
  rw [execDeadlineExpiry, Option.not_isSome_iff_eq_none.mp h]

theorem holdTimeoutExpiry_idle {chip : Nat} (h : ¬ (timedOutEntry chip s).isSome = true) :
    execHoldTimeoutExpiry chip s = .next s := by
  rw [execHoldTimeoutExpiry, Option.not_isSome_iff_eq_none.mp h]

theorem releaseMove_idle (h : ¬ (moveDue s).isSome = true) : execReleaseMove s = .next s := by
  rw [execReleaseMove, Option.not_isSome_iff_eq_none.mp h]

theorem setupWriteEnd_idle (h : s.setup.writing = none ∨ (s.port .c).inWork = none) : execSetupWriteEnd s = .next s := by
  unfold execSetupWriteEnd
  split
  · rename_i w f hw hf
    obtain h | h := h
    · cases h.symm.trans hw
    · cases h.symm.trans hf
  · rfl

theorem frameSent_idle (h : s.held = true ∨ (s.port p).tx = []) : execFrameSent p s = .next s := by
  unfold execFrameSent
  split
  · rename_i f rest htx
    exact if_pos (h.resolve_right (by simp [htx]))
  · rfl

theorem setupWriteEnd_held (hh : s.held = true) : execSetupWriteEnd s = .next s := by
  unfold execSetupWriteEnd
  split
  · exact ifDue_of_not (by simp [hh])
  · rfl

theorem leadSlew_idle (h : ¬ slewDue s = true) : execLeadSlew s = .next s := if_neg h

theorem serve_held {α : Type} {row : Frame → Bool} {layout : List Byte → Option α} {act : α → State → Reply}
    (hh : s.held = true) : serve p row layout act s = .next s :=
  serve_idle layout act fun _ _ asks => absurd hh (by simp [asks.1])

/-- While the part is held, the resets and the two changes of stored content alone do anything (log entry 20). -/
theorem exec_held {c : Instr} (hh : s.held = true) (hcold : ∀ a b, c ≠ .coldReset a b) (hedge : c ≠ .resetRisingEdge)
    (hrecord : ∀ bib x, c ≠ .recordUpset bib x) (hblock : ∀ x, c ≠ .setupBlockChange x) : exec c s = .next s := by
  have no_frame {q : Port} {row : Frame → Bool} (f : Frame) (rest : List Frame) (asks : s.Asks q f rest) : row f = false :=
    absurd hh (by simp [asks.1])
  cases c with
  | coldReset a b => exact absurd rfl (hcold a b)
  | resetRisingEdge => exact absurd rfl hedge
  | recordUpset bib x => exact absurd rfl (hrecord bib x)
  | setupBlockChange x => exact absurd rfl (hblock x)
  | frameArrival => exact if_pos hh
  | frameSent => exact frameSent_idle (.inl hh)
  | requestOfNoKind => exact requestOfNoKind_idle fun f rest asks => absurd hh (by simp [asks.1])
  | setupStore => exact setupStore_idle no_frame
  | restart => exact restart_idle no_frame
  | setupWriteEnd => exact setupWriteEnd_held hh
  | readJudgement => exact readJudgement_idle (by simp [nextJudgement_isSome, hh])
  | deadlineExpiry => exact deadlineExpiry_idle (by simp [dueCrossing_isSome, hh])
  | holdTimeoutExpiry => exact holdTimeoutExpiry_idle (by simp [timedOutEntry_isSome, hh])
  | releaseMove => exact releaseMove_idle (by simp [moveDue_isSome, hh])
  | leadSlew => exact leadSlew_idle (by simp [slewDue_iff, hh])
  | gapExpiry => exact ifDue_of_not (by simp [gapDue_iff, hh])
  | deferredFallback => exact ifDue_of_not (by simp [deferredDue_iff, hh])
  | silenceExpiry => exact ifDue_of_not (by simp [silenceDue_iff, hh])
  | quietExpiry => exact ifDue_of_not (by simp [quietDue_iff, hh])
  | missingPeriod => exact ifDue_of_not (by simp [missingDue_iff, hh])
  | xoQualify => exact ifDue_of_not (by simp [xoDue_iff, hh])
  | switchCompletion => exact ifDue_of_not (by simp [secondDue_iff, hh])
  | warmRestart cause =>
    cases cause with
    | pulse | request => exact ifDue_of_not (by simp [hh])
  | crcDiscard | lengthDiscard | framingError | syncMark | xoGap | comparisonWindowEnd => exact ifDue_of_not (by simp [hh])
  | report | matState | time | describe | page | runnerLoad | runnerRead | aliasSet | aliasClear | waveStart | waveSet
  | pointSet | holdsRead | holdResolveAdmit | holdResolveReject | holdTimeoutSet | splitsRead | boardSet | rotationSet
  | patternSet | gunSet | timeBeacon | clockSelect | clockLock | clockFailClear | clockSetup | withdraw | reinstate | amend
  | crossingEnter | faultRead | faultClearOrdinary | faultClearIntegrity | integritySet | statusRead => exact serve_held hh

end NotDue

end Sys2Proof.Machine
end

section
/-! SUPPORT. The request rows (O2, O4): the row of a kind, and that a row other than the one its port takes does nothing. -/

namespace Sys2Proof.Machine

section Rows

variable {s : State} {p : Port} {c : Instr}

/-- The row of a frame, with its kind known. -/
theorem requestOf_kind {f : Frame} {k : Byte} (h : f.kind = k) : requestOf p f = requestOf p { f with kind := k } := by
  rw [← h]

/-- A row of one kind does nothing unless its port takes a frame of that kind. -/
theorem serve_ofKind_idle {α : Type} {k : Byte} {layout : List Byte → Option α} {act : α → State → Reply}
    (hc : ∀ f : Frame, requestOf p { f with kind := k } = c) (h : ∀ f rest, s.Asks p f rest → requestOf p f ≠ c) :
    serve p (ofKind k) layout act s = .next s :=
  serve_idle layout act fun f rest asks =>
    Bool.eq_false_iff.mpr fun hk => h f rest asks ((requestOf_kind (eq_of_beq hk)).trans (hc f))

/-- The same for the rows that share a kind: `content` tells them apart. -/
theorem serve_content_idle {α : Type} {k : Byte} {content : Frame → Bool} {layout : List Byte → Option α}
    {act : α → State → Reply} (hc : ∀ f : Frame, content f = true → requestOf p { f with kind := k } = c)
    (h : ∀ f rest, s.Asks p f rest → requestOf p f ≠ c) :
    serve p (fun f => f.kind == k && content f) layout act s = .next s :=
  serve_idle layout act fun f rest asks => Bool.eq_false_iff.mpr fun hk => by
    obtain ⟨hkind, hcontent⟩ := Bool.and_eq_true_iff.mp hk
    exact h f rest asks ((requestOf_kind (eq_of_beq hkind)).trans (hc f hcontent))

theorem ofKind_false {k : Byte} (hc : ∀ f : Frame, requestOf p { f with kind := k } = c)
    (h : ∀ f rest, s.Asks p f rest → requestOf p f ≠ c) (f : Frame) (rest : List Frame) (asks : s.Asks p f rest) :
    ofKind k f = false :=
  Bool.eq_false_iff.mpr fun hk => h f rest asks ((requestOf_kind (eq_of_beq hk)).trans (hc f))

theorem requestOf_holdResolve (f : Frame) :
    requestOf p { f with kind := Kind.holdResolve } = if namesReject f then .holdResolveReject p else .holdResolveAdmit p := rfl

theorem requestOf_faultClear (f : Frame) :
    requestOf p { f with kind := Kind.faultClear }
      = if namesIntegrity f then .faultClearIntegrity p else .faultClearOrdinary p := rfl

theorem kind_mem_requests {f : Frame} {n : Nat} (h : f.kind.toNat = n) (hn : BitVec.ofNat 8 n ∈ Kind.requests) :
    f.kind ∈ Kind.requests := by
  rwa [← h, BitVec.ofNat_toNat, BitVec.setWidth_eq] at hn

/-- A kind outside the table has the row of no kind. -/
theorem requestOf_noKind {f : Frame} (h : f.kind ∉ Kind.requests) : requestOf p f = .requestOfNoKind p := by
  unfold requestOf
  split
  case h_36 => rfl
  all_goals exact absurd (kind_mem_requests (by assumption) (by decide)) h

/-- A request row other than the one its port takes now changes nothing. -/
theorem request_idle (hc : c ∈ requestRows p) (h : ∀ f rest, s.Asks p f rest → requestOf p f ≠ c) : exec c s = .next s := by
  cases c with
  | requestOfNoKind q =>
    obtain rfl : q = p := by simpa [requestRows] using hc
    refine requestOfNoKind_idle fun f rest asks => ?_
    rw [List.contains_iff_mem]
    exact not_not.mp fun hk => h f rest asks (requestOf_noKind hk)
  | holdResolveAdmit q =>
    obtain rfl : q = p := by simpa [requestRows] using hc
    exact serve_content_idle (fun f hf => (requestOf_holdResolve f).trans (if_neg (by simpa using hf))) h
  | holdResolveReject q =>
    obtain rfl : q = p := by simpa [requestRows] using hc
    exact serve_content_idle (fun f hf => (requestOf_holdResolve f).trans (if_pos hf)) h
  | faultClearOrdinary q =>
    obtain rfl : q = p := by simpa [requestRows] using hc
    exact serve_content_idle (fun f hf => (requestOf_faultClear f).trans (if_neg (by simpa using hf))) h
  | faultClearIntegrity q =>
    obtain rfl : q = p := by simpa [requestRows] using hc
    exact serve_content_idle (fun f hf => (requestOf_faultClear f).trans (if_pos hf)) h
  | setupStore q =>
    obtain rfl : q = p := by simpa [requestRows] using hc
    exact setupStore_idle (ofKind_false (fun _ => rfl) h)
  | restart q =>
    obtain rfl : q = p := by simpa [requestRows] using hc
    exact restart_idle (ofKind_false (fun _ => rfl) h)
  | report q | matState q | time q | describe q | page q | runnerLoad q | runnerRead q | aliasSet q | aliasClear q
  | waveStart q | waveSet q | pointSet q | holdsRead q | holdTimeoutSet q | splitsRead q | boardSet q | rotationSet q
  | patternSet q | gunSet q | timeBeacon q | clockSelect q | clockLock q | clockFailClear q | clockSetup q | withdraw q
  | reinstate q | amend q | crossingEnter q | faultRead q | integritySet q | statusRead q =>
    obtain rfl : q = p := by simpa [requestRows] using hc
    exact serve_ofKind_idle (fun _ => rfl) h
  | frameArrival | crcDiscard | lengthDiscard | framingError | gapExpiry | frameSent | deferredFallback | setupWriteEnd
  | readJudgement | deadlineExpiry | silenceExpiry | holdTimeoutExpiry | releaseMove | quietExpiry | syncMark | missingPeriod
  | xoQualify | xoGap | comparisonWindowEnd | switchCompletion | leadSlew | warmRestart | coldReset | recordUpset
  | setupBlockChange | resetRisingEdge => simp [requestRows] at hc

/-- A request row belongs to one port. -/
theorem requestRows_port {q : Port} (hp : c ∈ requestRows p) (hq : c ∈ requestRows q) : p = q := by
  simp only [requestRows, List.mem_append, List.mem_cons, List.not_mem_nil, or_false] at hp
  rcases hp with ((rfl | rfl | rfl | rfl | rfl | rfl | rfl | rfl | rfl | rfl | rfl | rfl | rfl | rfl | rfl | rfl)
    | rfl | rfl | rfl | rfl | rfl | rfl | rfl | rfl | rfl | rfl | rfl | rfl | rfl | rfl | rfl | rfl)
    | rfl | rfl | rfl | rfl | rfl | rfl
  all_goals simpa [requestRows] using hq

/-- A request row is due exactly when its port takes a frame of the row. -/
theorem request_due (hh : s.held = false) (hc : c ∈ requestRows p) :
    c ∈ dueEvents s ↔ ∃ f rest, s.Asks p f rest ∧ requestOf p f = c := by
  refine (mem_dueEvents hh c).trans ⟨?_, fun ⟨f, rest, asks, row⟩ => .inl ⟨p, .inr (mem_requestDue.mpr ⟨f, rest, asks, row⟩)⟩⟩
  rintro (⟨q, hline | hreq⟩ | own)
  · rw [mem_lineDue] at hline
    rcases hline with ⟨-, rfl⟩ | ⟨-, rfl⟩ | ⟨-, rfl⟩ | ⟨-, rfl⟩ <;> simp [requestRows] at hc
  · obtain rfl := requestRows_port hc (mem_requestRows_of_due hreq)
    exact mem_requestDue.mp hreq
  · rcases own with ⟨-, rfl⟩ | ⟨-, rfl⟩ | ⟨-, rfl⟩ | ⟨-, rfl⟩ | ⟨-, rfl⟩ | ⟨_, -, -, rfl⟩ | ⟨_, -, rfl⟩ | ⟨_, -, -, rfl⟩
      | ⟨-, rfl⟩ | ⟨-, rfl⟩ | ⟨_, -, rfl⟩ | ⟨-, rfl⟩ | ⟨-, rfl⟩ <;> simp [requestRows] at hc

end Rows

end Sys2Proof.Machine
end

section
/-! SUPPORT. What taking a request comes to (O5, O6): the checks of the link, the action of its block, and how its port ends it;
one line for each kind. -/

namespace Sys2Proof.Machine

/-- What a request comes to before its port answers: the link refuses it, or its block replies. -/
inductive Checked (p : Port) (f : Frame) (s : State) : Reply → Prop
  | format : f.fits = false → Checked p f s (.error .format)
  | role : f.fits = true → Kind.taken p.role f.kind = false → Checked p f s (.error .role)
  | block {r : Reply} : f.fits = true → Kind.taken p.role f.kind = true → (∀ t x, r = .ok (t, x) → Acts s t) → Checked p f s r

/-- How its port ends a request that it took in `s`. -/
inductive Served (p : Port) (f : Frame) (s : State) : State → Prop
  | refused {why : Reason} : Checked p f s (.error why) → Served p f s (s.refuse p f why)
  | accepted {t : State} {results : List Byte} (last : Bool) : Checked p f s (.ok (t, results)) →
      Served p f s (t.answer p (ackFrame f results) last)
  | stored {t : State} {results : List Byte} : f.kind = Kind.setupStore → t.ports = s.ports →
      Checked p f s (.ok (t, results)) → Served p f s (t.setPort p { t.port p with inWork := some f })

section Serving

variable {s t : State} {p : Port} {f : Frame} {rest : List Frame} {k : Byte}

theorem checked_cases {α : Type} {layout : List Byte → Option α} {act : α → State → Reply}
    (fits : f.fits = (layout f.payload).isSome) (acts : ∀ a v x, layout f.payload = some a → act a s = .ok (v, x) → Acts s v) :
    Checked p f s (checked p f layout act s) := by
  unfold checked
  cases hl : layout f.payload with
  | none => exact .format (by rw [fits, hl]; rfl)
  | some a =>
    have hf : f.fits = true := by rw [fits, hl]; rfl
    cases hr : Kind.taken p.role f.kind with
    | false => exact .role hf hr
    | true => exact .block hf hr fun v x => acts a v x hl

theorem checked_ok {α : Type} {layout : List Byte → Option α} {act : α → State → Reply} {results : List Byte}
    (h : checked p f layout act s = .ok (t, results)) : ∃ a, layout f.payload = some a ∧ act a s = .ok (t, results) := by
  unfold checked at h
  split at h
  · cases h
  · rename_i a ha
    split at h
    · exact ⟨a, ha, h⟩
    · cases h

theorem served_answered {r : Reply} (h : Checked p f s r) : Served p f s (answered p f s r) := by
  cases r with
  | error why => exact .refused h
  | ok x => exact .accepted false h

/-- A row that answers in the event that takes its frame. -/
theorem served_row {α : Type} {row : Frame → Bool} {layout : List Byte → Option α} {act : α → State → Reply}
    (asks : s.Asks p f rest) (hr : row f = true) (fits : f.fits = (layout f.payload).isSome)
    (acts : ∀ a v x, layout f.payload = some a → act a (s.taken p rest) = .ok (v, x) → Acts (s.taken p rest) v) :
    ∃ t, serve p row layout act s = .next t ∧ Served p f (s.taken p rest) t :=
  ⟨_, serve_of_asks layout act asks hr, served_answered (checked_cases fits acts)⟩

theorem setupStore_served (asks : s.Asks p f rest) (hk : f.kind = Kind.setupStore)
    (fits : f.fits = (Layout.empty f.payload).isSome) : ∃ t, execSetupStore p s = .next t ∧ Served p f (s.taken p rest) t := by
  have outcome : Checked p f (s.taken p rest) (checked p f Layout.empty beginStore (s.taken p rest)) :=
    checked_cases fits fun _ _ _ _ => beginStore_acts
  unfold execSetupStore
  rw [takeFrame_of_asks asks (row := ofKind _) (beq_iff_eq.mpr hk)]
  dsimp only
  cases hr : checked p f Layout.empty beginStore (s.taken p rest) with
  | error why => exact ⟨_, rfl, .refused (hr ▸ outcome)⟩
  | ok x =>
    obtain ⟨v, results⟩ := x
    obtain ⟨a, -, ha⟩ := checked_ok hr
    cases ha
    exact ⟨_, rfl, .stored hk rfl (hr ▸ outcome)⟩

theorem restart_served (asks : s.Asks p f rest) (hk : f.kind = Kind.restart)
    (fits : f.fits = (Layout.empty f.payload).isSome) : ∃ t, execRestart p s = .next t ∧ Served p f (s.taken p rest) t := by
  have outcome : Checked p f (s.taken p rest) (checked p f Layout.empty (fun _ s => .ok (s, [])) (s.taken p rest)) :=
    checked_cases fits fun _ v _ _ hv => by
      cases hv
      exact .refl _
  unfold execRestart
  rw [takeFrame_of_asks asks (row := ofKind _) (beq_iff_eq.mpr hk)]
  dsimp only
  cases hr : checked p f Layout.empty (fun _ s => Except.ok (s, [])) (s.taken p rest) with
  | error why => exact ⟨_, rfl, .refused (hr ▸ outcome)⟩
  | ok x => exact ⟨_, rfl, .accepted true (hr ▸ outcome)⟩

/-- The rows of a feed's requests act for the feed of the port. -/
theorem feedRow_acts {α : Type} {act : Feed → α → State → Reply} {a : α} {x : List Byte}
    (h : ∀ g, act g a s = .ok (t, x) → Acts s t)
    (hv : (match p.feed? with
      | some g => act g a s
      | none => .error .role) = .ok (t, x)) : Acts s t := by
  cases hp : p.feed? with
  | none => rw [hp] at hv; cases hv
  | some g => rw [hp] at hv; exact h g hv

/-- A request whose reply names the state that it was handed. -/
theorem read_only {x y : List Byte} (h : (Except.ok (s, x) : Reply) = .ok (t, y)) : t = s := by
  cases h
  rfl

theorem reads_acts (h : t = s) : Acts s t := h ▸ .refl s

/-- Every request that a port takes is checked, acted on by its block and ended by its port. -/
theorem request_served (asks : s.Asks p f rest) (hk : f.kind ∈ Kind.requests) :
    ∃ t, exec (requestOf p f) s = .next t ∧ Served p f (s.taken p rest) t := by
  have hh : (s.taken p rest).held = false := asks.1
  obtain ⟨kind, tag, payload⟩ := f
  simp only [Kind.requests, List.cons_append, List.nil_append, List.mem_cons, List.not_mem_nil, or_false] at hk
  rcases hk with rfl | rfl | rfl | rfl | rfl | rfl | rfl | rfl | rfl | rfl | rfl | rfl | rfl | rfl | rfl | rfl | rfl | rfl
    | rfl | rfl | rfl | rfl | rfl | rfl | rfl | rfl | rfl | rfl | rfl | rfl | rfl | rfl | rfl | rfl | rfl
  · exact served_row asks rfl rfl fun _ _ _ _ hv => feedRow_acts (fun _ => report_acts) hv
  · exact served_row asks rfl rfl fun _ _ _ _ hv => feedRow_acts (fun _ => matState_acts) hv
  · exact served_row asks rfl rfl fun _ _ _ _ hv => reads_acts (read_only hv)
  · exact served_row asks rfl rfl fun _ _ _ _ hv => reads_acts (describe_ok hv)
  · exact served_row asks rfl rfl fun _ _ _ _ hv => page_ok hv ▸ page_acts hh
  · exact served_row asks rfl rfl fun _ _ _ _ => runnerLoad_acts
  · exact served_row asks rfl rfl fun _ _ _ _ => runnerRead_acts
  · exact served_row asks rfl rfl fun _ _ _ _ => aliasSet_acts
  · exact served_row asks rfl rfl fun _ _ _ _ => aliasClear_acts
  · exact served_row asks rfl rfl fun _ _ _ _ => waveStart_acts
  · exact served_row asks rfl rfl fun _ _ _ _ => waveSet_acts
  · exact served_row asks rfl rfl fun _ _ _ _ => pointSet_acts
  · exact served_row asks rfl rfl fun _ _ _ _ hv => reads_acts (holdsRead_ok hv)
  · cases hc : namesReject ⟨Kind.holdResolve, tag, payload⟩ with
    | false =>
      rw [requestOf_holdResolve ⟨Kind.holdResolve, tag, payload⟩, hc]
      exact served_row asks (by simp [hc]) rfl fun _ _ _ _ => holdResolve_acts
    | true =>
      rw [requestOf_holdResolve ⟨Kind.holdResolve, tag, payload⟩, hc]
      exact served_row asks (by simp [hc]) rfl fun _ _ _ _ => holdResolve_acts
  · exact served_row asks rfl rfl fun _ _ _ _ => holdTimeoutSet_acts
  · exact served_row asks rfl rfl fun _ _ _ _ hv => reads_acts (splitsRead_ok hv)
  · exact served_row asks rfl rfl fun _ _ _ _ hv => boardSet_acts hh hv
  · exact served_row asks rfl rfl fun _ _ _ hl hv => rotationSet_acts hh hl hv
  · exact served_row asks rfl rfl fun _ _ _ _ => patternSet_acts
  · exact served_row asks rfl rfl fun _ _ _ _ => gunSet_acts
  · exact served_row asks rfl rfl fun _ _ _ _ hv => timeBeacon_ok hv ▸ mark_acts .beacon hh
  · exact served_row asks rfl rfl fun _ _ _ _ => clockSelect_acts
  · exact served_row asks rfl rfl fun _ _ _ _ hv => clockLock_ok hv ▸ .of_flags _ _ _ _ _
  · exact served_row asks rfl rfl fun _ _ _ _ hv => clockFailClear_ok hv ▸ .of_flags _ _ _ _ _
  · refine served_row asks rfl rfl fun _ _ _ _ hv => ?_
    obtain ⟨_, _, _, rfl⟩ := clockSetup_ok hv
    exact .of_flags _ _ _ _ _
  · exact served_row asks rfl rfl fun _ _ _ _ => withdraw_acts
  · exact served_row asks rfl rfl fun _ _ _ _ => reinstate_acts
  · exact served_row asks rfl rfl fun _ _ _ _ => amend_acts
  · exact served_row asks rfl rfl fun _ _ _ _ => crossingEnter_acts
  · exact served_row asks rfl rfl fun _ _ _ _ hv => reads_acts (read_only hv)
  · cases hc : namesIntegrity ⟨Kind.faultClear, tag, payload⟩ with
    | false =>
      rw [requestOf_faultClear ⟨Kind.faultClear, tag, payload⟩, hc]
      exact served_row asks (by simp [hc]) rfl fun _ _ _ _ => faultClear_acts
    | true =>
      rw [requestOf_faultClear ⟨Kind.faultClear, tag, payload⟩, hc]
      exact served_row asks (by simp [hc]) rfl fun _ _ _ _ => faultClear_acts
  · exact served_row asks rfl rfl fun _ _ _ _ => integritySet_acts
  · exact served_row asks rfl rfl fun _ _ _ _ hv => reads_acts (read_only hv)
  · exact setupStore_served asks rfl rfl
  · exact restart_served asks rfl rfl

end Serving

end Sys2Proof.Machine
end

section
/-! SUPPORT. What every event and every command keeps, and the statements on what a step keeps (O53 to O59). -/

namespace Sys2Proof.Machine

/-! ### Events of the blocks -/

section Events

variable {s t : State}

theorem frameArrival_steps {p : Port} {bytes : List Byte} (h : execFrameArrival p bytes s = .next t) : Steps s t := by
  unfold execFrameArrival at h
  dsimp only at h
  have got := receive_steps p bytes s
  split at h
  · cases h
    exact .refl s
  · split at h <;> cases h
    · exact got.trans (arrive_steps p _ _ _)
    all_goals exact got

theorem discardOn_steps {p : Port} {bytes : List Byte} {case_ : Scan} (h : discardOn p bytes case_ s = .next t) :
    Steps s t := by
  refine ifDue_steps h fun _ => .of_setPort fun bound ok => ?_
  have got := ok.receive bytes s.now
  split
  · exact PortState.Ok.discard got
  · exact got

theorem framingError_steps {p : Port} {bytes : List Byte} (h : execFramingError p bytes s = .next t) : Steps s t :=
  ifDue_steps h fun _ =>
    ((receive_steps p bytes s).trans (settleLine_steps p _ _)).trans (.of_setPort fun _ ok => ok.cutFrame)

theorem gapExpiry_steps {p : Port} (h : execGapExpiry p s = .next t) : Steps s t :=
  ifDue_steps h fun _ => .of_setPort fun _ ok => ok.cutFrame

theorem frameSent_steps {p : Port} (h : execFrameSent p s = .next t) : Steps s t := by
  unfold execFrameSent at h
  split at h
  · rename_i htx
    split at h <;> cases h
    · exact .refl s
    · have sent := Steps.of_setPort (s := s) (p := p) fun _ ok => PortState.Ok.sent ok htx
      exact sent.trans (.of_restartDue _)
  · cases h
    exact .refl s

theorem requestOfNoKind_steps {p : Port} (h : execRequestOfNoKind p s = .next t) : Steps s t := by
  unfold execRequestOfNoKind at h
  split at h
  · cases h
    exact .refl s
  · rename_i f u htake
    cases h
    obtain ⟨rest, asks, -, rfl⟩ := takeFrame_some htake
    exact (taken_steps asks).trans (answer_steps false rfl (taken_ready asks))

theorem setupWriteEnd_steps (h : execSetupWriteEnd s = .next t) : Steps s t := by
  unfold execSetupWriteEnd at h
  split at h
  · rename_i w f hwriting hwork
    refine ifDue_steps h fun _ => ?_
    have written : Acts s { s with setup := { block := { items := w.copy, codedFor := some w.copy }, writing := none } } :=
      .of_setup fun ⟨_, _, hw, _⟩ => ⟨fun y hy => (Option.some.inj hy) ▸ hw w hwriting, nofun⟩
    refine written.toSteps.trans ?_
    have answered := Steps.of_setPort (s := { s with setup := ⟨⟨w.copy, some w.copy⟩, none⟩ }) (p := .c)
      (ps := ({ s.port .c with inWork := none } : PortState).place (ackFrame f []) false)
      fun bound ⟨hbuffer, hanswers, hroom, hrest⟩ =>
        have room := hroom (Option.isSome_iff_exists.mpr ⟨f, hwork⟩)
        PortState.Ok.answered (ps := { s.port .c with inWork := none }) (bound := bound)
          ⟨hbuffer, hanswers, nofun, hrest⟩ false rfl room rfl
    simpa only [State.answer, State.setPort, Ports.set_set, State.port, Ports.get_set_same] using answered
  · cases h
    exact .refl s

/-- What a served request leaves of the state in which its frame was taken. -/
theorem checked_acts {p : Port} {f : Frame} {x : List Byte} (h : Checked p f s (.ok (t, x))) : Acts s t := by
  cases h with
  | block hf hr acts => exact acts t x rfl

theorem served_steps {p : Port} {f : Frame} (h : Served p f s t)
    (ready : (s.port p).inWork = none ∧ (s.port p).answers < answerCap) : Steps s t := by
  cases h with
  | refused => exact answer_steps false rfl ready
  | accepted last hc =>
    have acts := checked_acts hc
    exact acts.toSteps.trans (answer_steps last rfl (acts.port_ready ready.1 ready.2))
  | stored hk _ hc =>
    have acts := checked_acts hc
    have room := (acts.port_ready ready.1 ready.2).2
    exact acts.toSteps.trans (.of_setPort fun _ ⟨hbuffer, hanswers, _, hrest⟩ => ⟨hbuffer, hanswers, fun _ => room, hrest⟩)

/-- A request row is idle, or its port takes a frame and serves it. -/
theorem request_steps {p : Port} {c : Instr} (hc : c ∈ requestRows p) (h : exec c s = .next t) : Steps s t := by
  by_cases idle : ∀ f rest, s.Asks p f rest → requestOf p f ≠ c
  · cases (request_idle hc idle).symm.trans h
    exact .refl s
  · push Not at idle
    obtain ⟨f, rest, asks, rfl⟩ := idle
    by_cases hk : f.kind ∈ Kind.requests
    · obtain ⟨u, runs, served⟩ := request_served asks hk
      cases runs.symm.trans h
      exact (taken_steps asks).trans (served_steps served (taken_ready asks))
    · rw [requestOf_noKind hk] at h
      exact requestOfNoKind_steps h

theorem deadlineExpiry_steps {bib : Nat} (h : execDeadlineExpiry bib s = .next t) : Steps s t := by
  unfold execDeadlineExpiry at h
  split at h <;> cases h
  · exact (settleCrossing_acts _ _ s).toSteps
  · exact .refl s

theorem readJudgement_steps (h : execReadJudgement s = .next t) : Steps s t := by
  unfold execReadJudgement at h
  cases hj : nextJudgement s with
  | none =>
    rw [hj] at h
    cases h
    exact .refl s
  | some u =>
    rw [hj] at h
    cases h
    exact (nextJudgement_acts hj).toSteps

theorem silence_acts (x : Feed) (s : State) : Acts s (silence x s) := by
  unfold silence
  dsimp only
  refine Acts.trans ?_ (updateFeed_acts (fun ⟨hlen, _⟩ => ⟨hlen, fun hl => nomatch hl⟩) rfl)
  split
  · exact raiseFault_acts .feed x.code s
  · exact .refl s

theorem holdTimeoutExpiry_steps {chip : Nat} (h : execHoldTimeoutExpiry chip s = .next t) : Steps s t := by
  unfold execHoldTimeoutExpiry at h
  split at h <;> cases h
  · rename_i e _
    exact ((count_acts s e.feed .timedOut).trans (.of_remove chip)).toSteps
  · exact .refl s

/-- An entry moves only where the release queue has a free place; before the gun there is none to move. -/
theorem releaseMove_steps (h : execReleaseMove s = .next t) : Steps s t := by
  unfold execReleaseMove at h
  split at h <;> cases h
  · rename_i e hmove
    unfold moveDue at hmove
    split at hmove
    · cases hmove
    · rename_i hfree
      have room : s.hold.release.length < releaseCap := by
        simp only [Bool.or_eq_true, decide_eq_true_eq, not_or] at hfree
        exact Nat.not_le.mp hfree.2
      refine (Acts.of_hold (fun ok => ?_) (fun ht => ?_) fun _ hl => ?_).toSteps
      · obtain ⟨hlist, hchips, -, hflag⟩ := ok.remove e.chip
        exact ⟨hlist, hchips, by rw [HoldUnit.moveOut, List.length_append]; exact room, hflag⟩
      · exact (s.hold.remove_timeout e.chip).symm ▸ ht
      · rw [hl] at hmove
        cases hmove
  · exact .refl s

theorem quietExpiry_steps (h : execQuietExpiry s = .next t) : Steps s t :=
  ifDue_steps h fun _ => (Acts.of_board (s := s) (b := { s.board with lastOffer := none }) id id fun _ => ⟨rfl, rfl⟩).toSteps

theorem not_held_of_due {b : Bool} (h : (!s.held && b) = true) : s.held = false := by
  rw [Bool.and_eq_true, Bool.not_eq_true'] at h
  exact h.1

theorem xoQualify_steps (h : execXoQualify s = .next t) : Steps s t :=
  ifDue_steps h fun _ => (Acts.of_xo fun _ => Nat.zero_le _).toSteps

theorem xoGap_steps (h : execXoGap s = .next t) : Steps s t := by
  refine ifDue_steps h fun hd => ?_
  have moved : Acts s { s with clock := { s.clock with xo := s.clock.xo.gap } } := .of_xo fun _ => Nat.zero_le _
  split
  · exact (moved.trans (sourceFailed_acts .xo (by simpa using hd))).toSteps
  · exact moved.toSteps

theorem comparisonWindowEnd_steps {cycles : Nat} (h : execComparisonWindowEnd cycles s = .next t) : Steps s t := by
  refine ifDue_steps h fun hd => ?_
  have moved : Acts s { s with clock := { s.clock with xo := s.clock.xo.windowEnd cycles } } :=
    .of_xo fun hx => s.clock.xo.windowEnd_count cycles hx
  split
  · exact (moved.trans (sourceFailed_acts .xo (by simpa using hd))).toSteps
  · exact moved.toSteps

theorem switchCompletion_steps (h : execSwitchCompletion s = .next t) : Steps s t := by
  refine ifDue_steps h fun hd => ?_
  have hh : s.held = false := by
    simp only [secondDue, wholeSecond, Bool.and_eq_true, Bool.not_eq_true'] at hd
    exact hd.1.1.1
  unfold switchSecond
  dsimp only
  split
  · rename_i r _
    have switched : Acts s { s with clock := { s.clock with
        secondTaken := s.now, current := r, requested := none, lead := 0 } } := by
      refine .of_clock (fun ok => ?_) (fun held => by cases hh.symm.trans held) le_rfl fun _ he => he
      obtain ⟨htime, hepoch, hsync, hbeacon, hxo, -, -⟩ := ok
      exact ⟨htime, hepoch, hsync, hbeacon, hxo, ⟨(by decide : (-499 : Int) ≤ 0), (by decide : (0 : Int) ≤ 500)⟩, nofun⟩
    exact (switched.trans (.of_notice _ (.inr (.inr rfl)))).toSteps
  · exact (Acts.of_clock (s := s) (c := { s.clock with secondTaken := s.now }) id (fun _ => rfl) le_rfl fun _ he => he).toSteps

/-- Course time moves on within its bound (R127). -/
theorem advanceTime_steps {n : Nat} {s₀ : State} {g : Timebase → Timebase} (hs : advanceTime n s₀ g = .next t)
    (hkept : Steps s s₀)
    (hg : s₀.now + n ≤ maxCourseTime → Acts s₀ { s₀ with clock := g { s₀.clock with courseTime := s₀.now + n } }) :
    Steps s t := by
  unfold advanceTime at hs
  split at hs <;> cases hs
  exact hkept.trans (hg (by assumption)).toSteps

theorem Timebase.Ok.advance {c : Timebase} (h : c.Ok) {n : Nat} (hn : c.courseTime + n ≤ maxCourseTime) :
    ({ c with courseTime := c.courseTime + n } : Timebase).Ok := by
  obtain ⟨-, hepoch, hsync, hbeacon, hrest⟩ := h
  exact ⟨hn, fun e he => (hepoch e he).trans (Nat.le_add_right _ _), hsync.later (Nat.le_add_right _ _),
    hbeacon.later (Nat.le_add_right _ _), hrest⟩

theorem leadSlew_steps (h : execLeadSlew s = .next t) : Steps s t := by
  unfold execLeadSlew at h
  split at h
  · refine advanceTime_steps h (.refl s) fun hn => .of_clock (fun ok => ?_) (fun _ => rfl) (Nat.le_add_right _ _) fun _ he => he
    obtain ⟨htime, hepoch, hsync, hbeacon, hxo, ⟨hlo, hhi⟩, hrequested⟩ := ok.advance hn
    refine ⟨htime, hepoch, hsync, hbeacon, hxo, ?_, hrequested⟩
    dsimp only [slewLead]
    split
    · constructor <;> omega
    · split <;> constructor <;> omega
  · cases h
    exact .refl s

theorem XoState.tick_count (x : XoState) (n : Nat) (h : x.count ≤ 65535) : (x.tick n).count ≤ 65535 := by
  unfold XoState.tick
  split
  · exact Nat.min_le_left _ _
  · exact h

theorem tick_steps (h : tick s = .next t) : Steps s t := by
  unfold tick at h
  split at h
  · cases h
    exact .refl s
  · have counted : Steps s { s with choices := s.choices + 1 } := ⟨⟨rfl, id, id, id, id, id, id⟩, .refl s⟩
    refine advanceTime_steps h counted fun hn => .of_clock (fun ok => ?_) (fun _ => rfl) (Nat.le_add_right _ _) fun _ he => he
    obtain ⟨htime, hepoch, hsync, hbeacon, hxo, hrest⟩ := ok.advance hn
    exact ⟨htime, hepoch, hsync, hbeacon, s.clock.xo.tick_count _ hxo, hrest⟩

end Events

/-! ### The resets -/

section Resets

variable {s t : State}

theorem cut_inRange (ok : s.SettingsOk) :
    (∀ y ∈ s.setup.cut.block.codedFor, SettingsInRange y) ∧ ∀ w ∈ s.setup.cut.writing, SettingsInRange w.copy := by
  obtain ⟨-, hcoded, hwriting, -⟩ := ok
  unfold SetupStore.cut
  split
  · exact ⟨nofun, nofun⟩
  · exact ⟨hcoded, hwriting⟩

theorem FeedState.Ok.restart (fs : FeedState) : fs.restart.Ok := ⟨Nat.zero_le _, nofun⟩

/-- Every block but the hold unit at a warm restart (R196). -/
def State.restarted (s : State) : State :=
  { s with
    ports := s.ports.restart
    feeds := { a := s.feeds.a.restart, b := s.feeds.b.restart }
    engine := s.engine.restart s.now
    board := s.board.restart
    faults := { s.faults with warm := true }
    setup := s.setup.cut }

theorem warmRestart_eq (s : State) : warmRestart s = restartHold s.restarted := rfl

/-- The blocks restart while the part is not held. -/
theorem restarted_steps (hh : s.held = false) : Steps s s.restarted where
  pending := rfl
  ports := fun ⟨ha, hb, hc, hd⟩ => ⟨ha.restart, hb.restart, hc.restart, hd.restart⟩
  stores := fun ⟨hdir, halias, hengine, hhold, hlog, _⟩ =>
    ⟨hdir, halias, hengine.map fun _ => rfl, hhold, hlog, ⟨Nat.zero_le _, Nat.zero_le _, Nat.zero_le _, Nat.zero_le _⟩,
      .restart _, .restart _⟩
  faults := id
  clock := id
  settings := fun ok => by
    obtain ⟨coded, writing⟩ := cut_inRange ok
    obtain ⟨⟨hpoint, htimeout, hboard, hrotation⟩, -⟩ := ok
    exact ⟨⟨hpoint, htimeout, hboard, hrotation⟩, coded, writing,
      Board.slotOk_of_no_page (b := s.board.restart) hrotation hrotation.1 rfl, fun held => by cases hh.symm.trans held⟩
  quiet := fun h he =>
    have ⟨_, _, hl, hr, hx⟩ := h he
    ⟨rfl, rfl, hl, hr, List.map_eq_nil_iff.mpr hx⟩
  time := .refl s

theorem warmRestart_steps (hh : s.held = false) : Steps s (warmRestart s) :=
  warmRestart_eq s ▸ (restarted_steps hh).trans (restartHold_acts s.restarted).toSteps

theorem warmRestartRow_steps {cause : RestartCause} (h : execWarmRestart cause s = .next t) : Steps s t := by
  cases cause with
  | pulse => exact ifDue_steps h fun hd => warmRestart_steps (by simpa using hd)
  | request => exact ifDue_steps h fun hd => (warmRestart_steps (not_held_of_due hd)).trans (.of_restartDue false)

theorem defaultSettings_inRange : SettingsInRange defaultSettings := by decide

theorem startTarget_ne_rc (x : StartTarget) : some x.source ≠ some Source.rc := by
  cases x with
  | sync | beacon | xo => decide

/-- The load puts settings in range into a part that is released from reset. -/
theorem withSettings_steps {x : Settings} (hh : s.held = true) (hx : s.SettingsOk → SettingsInRange x) :
    Steps s (State.withSettings { s with held := false } x) where
  pending := rfl
  ports := id
  stores := id
  faults := id
  clock := fun ⟨⟨htime, hepoch, hsync, hbeacon, hxo, hlead, _⟩, hrc⟩ =>
    ⟨⟨htime, hepoch, hsync, hbeacon, hxo, hlead, (hrc hh).symm ▸ startTarget_ne_rc x.startTarget⟩, nofun⟩
  settings := fun ok => by
    have range := hx ok
    obtain ⟨-, hcoded, hwriting, -, hheld⟩ := ok
    obtain ⟨slot_zero, count_zero⟩ := hheld hh
    have ⟨_, _, _, hr⟩ := range
    refine ⟨range, hcoded, hwriting, ?_, nofun⟩
    exact Board.slotOk_of_no_page (b := { s.board with settings := x.board, rotation := x.rotation }) hr
      (slot_zero.trans_lt hr.1) count_zero
  quiet := id
  time := .refl s

theorem resetRisingEdge_steps (h : execResetRisingEdge s = .next t) : Steps s t := by
  refine ifDue_steps h fun hh => ?_
  unfold loadSetup
  split
  · rename_i passes
    refine withSettings_steps hh fun ⟨_, hcoded, _⟩ => hcoded _ ?_
    exact of_decide_eq_true passes
  · exact (withSettings_steps hh fun _ => defaultSettings_inRange).trans (raiseFault_acts .setup 0 _).toSteps

theorem cold_faultItem (rate : LineRate) (block : SetupBlock) (k : FaultKind) :
    (State.cold rate block).faults.set.get k = FaultItem.never := by
  cases k with
  | setup | timebase | crossingFull | holdFull | feed => rfl

theorem cold_faultsOk (rate : LineRate) (block : SetupBlock) : (State.cold rate block).faults.Ok :=
  ⟨fun k _ => (cold_faultItem rate block k).symm ▸ ⟨Nat.zero_le _, nofun⟩,
    fun _ k _ => (cold_faultItem rate block k).symm ▸ rfl, nofun⟩

theorem coldReset_kept {a b : Bool} (h : execColdReset a b s = .next t) : Kept s t := by
  cases h
  refine ⟨rfl, fun _ => ?ports, fun _ => ?stores, fun _ => ?faults, fun _ => ?clock, fun ok => ?settings, fun _ _ => ?quiet⟩
  case ports => exact (by decide : (State.cold .baud115200 SetupBlock.unwritten).PortsOk)
  case stores => exact (by decide : (State.cold .baud115200 SetupBlock.unwritten).StoresOk)
  case faults => exact cold_faultsOk (LineRate.ofStraps a b) s.setup.cut.block
  case clock => exact (by decide : (State.cold .baud115200 SetupBlock.unwritten).ClockOk)
  case settings =>
    exact ⟨defaultSettings_inRange, (cut_inRange ok).1, nofun,
      (by decide : (State.cold .baud115200 SetupBlock.unwritten).board.SlotOk), fun _ => ⟨rfl, rfl⟩⟩
  case quiet => exact ⟨rfl, rfl, rfl, rfl, rfl⟩

end Resets

/-! ### Every command -/

section Commands

variable {s t : State} {c : Instr}

/-- Every command but a cold reset keeps the invariants, the queue, the race epoch and the order of course time. -/
theorem exec_steps (hc : ∀ a b, c ≠ .coldReset a b) (h : exec c s = .next t) : Steps s t := by
  cases c with
  | frameArrival p bytes => exact frameArrival_steps h
  | crcDiscard p bytes => exact discardOn_steps h
  | lengthDiscard p bytes => exact discardOn_steps h
  | framingError p bytes => exact framingError_steps h
  | gapExpiry p => exact gapExpiry_steps h
  | frameSent p => exact frameSent_steps h
  | requestOfNoKind p | report p | matState p | time p | describe p | page p | runnerLoad p | runnerRead p | aliasSet p
  | aliasClear p | waveStart p | waveSet p | pointSet p | holdsRead p | holdResolveAdmit p | holdResolveReject p
  | holdTimeoutSet p | splitsRead p | boardSet p | rotationSet p | patternSet p | gunSet p | timeBeacon p | clockSelect p
  | clockLock p | clockFailClear p | clockSetup p | withdraw p | reinstate p | amend p | crossingEnter p | faultRead p
  | faultClearOrdinary p | faultClearIntegrity p | integritySet p | statusRead p | setupStore p | restart p =>
    exact request_steps (p := p) (by simp [requestRows]) h
  | deferredFallback => exact ifDue_steps h fun hd => (fallback_acts _ (not_held_of_due hd)).toSteps
  | setupWriteEnd => exact setupWriteEnd_steps h
  | readJudgement => exact readJudgement_steps h
  | deadlineExpiry bib => exact deadlineExpiry_steps h
  | silenceExpiry x => exact ifDue_steps h fun _ => (silence_acts x s).toSteps
  | holdTimeoutExpiry chip => exact holdTimeoutExpiry_steps h
  | releaseMove => exact releaseMove_steps h
  | quietExpiry => exact quietExpiry_steps h
  | syncMark => exact ifDue_steps h fun hd => (mark_acts .sync (by simpa using hd)).toSteps
  | missingPeriod r => exact ifDue_steps h fun hd => (missing_acts r (not_held_of_due hd)).toSteps
  | xoQualify => exact xoQualify_steps h
  | xoGap => exact xoGap_steps h
  | comparisonWindowEnd cycles => exact comparisonWindowEnd_steps h
  | switchCompletion => exact switchCompletion_steps h
  | leadSlew => exact leadSlew_steps h
  | warmRestart cause => exact warmRestartRow_steps h
  | coldReset a b => exact absurd rfl (hc a b)
  | recordUpset bib content =>
    exact ifDue_steps h fun _ => (Acts.of_dir (s := s) (fun ok => ok.setRecord bib _) id).toSteps
  | setupBlockChange items =>
    cases h
    exact (Acts.of_setup (s := s) (x := { s.setup with block := { s.setup.block with items := items } })
      fun ⟨_, hcoded, hwriting, _⟩ => ⟨hcoded, hwriting⟩).toSteps
  | resetRisingEdge => exact resetRisingEdge_steps h

theorem exec_kept (h : exec c s = .next t) : Kept s t := by
  by_cases hc : ∃ a b, c = .coldReset a b
  · obtain ⟨a, b, rfl⟩ := hc
    exact coldReset_kept h
  · exact (exec_steps (fun a b he => hc ⟨a, b, he⟩) h).toKept

/-- An invariant that looks at neither the queue nor the counter of free values, and that every command and the millisecond
keep, is kept by every step. -/
theorem step_keeps {P : State → Prop} (hqueue : ∀ u rest, P u → P { u with pending := rest })
    (hchoices : ∀ u n, P u → P { u with choices := n }) (hexec : ∀ c u v, exec c u = .next v → P u → P v)
    (htick : ∀ u v, tick u = .next v → P u → P v) (h : step s = .next t) (hs : P s) : P t := by
  obtain ⟨c, rest, -, hrun⟩ | ⟨c, n, -, -, hrun⟩ | ⟨-, -, hrun⟩ := step_next h
  · exact hexec _ _ _ hrun (hqueue _ _ hs)
  · exact hexec _ _ _ hrun (hchoices _ _ hs)
  · exact htick _ _ hrun hs

end Commands

/-! ### The statements -/

/-- Settles O53: every command and the millisecond keep the bounds of the ports. -/
theorem portsStayInBounds : Obligations.PortsStayInBounds := fun _ _ ok h =>
  step_keeps (fun _ _ => id) (fun _ _ => id) (fun _ _ _ hrun => (exec_kept hrun).ports)
    (fun _ _ hrun => (tick_steps hrun).ports) h ok

/-- Settles O54: every command and the millisecond keep each store in its capacity and form. -/
theorem storesStayInBounds : Obligations.StoresStayInBounds := fun _ _ ok h =>
  step_keeps (fun _ _ => id) (fun _ _ => id) (fun _ _ _ hrun => (exec_kept hrun).stores)
    (fun _ _ hrun => (tick_steps hrun).stores) h ok

/-- Settles O55: an occurrence and a clear keep the fault unit consistent, and nothing else changes its kinds. -/
theorem faultUnitStaysConsistent : Obligations.FaultUnitStaysConsistent := fun _ _ ok h =>
  step_keeps (P := fun u => u.faults.Ok) (fun _ _ => id) (fun _ _ => id) (fun _ _ _ hrun => (exec_kept hrun).faults)
    (fun _ _ hrun => (tick_steps hrun).faults) h ok

/-- Settles O56: every command and the millisecond keep the timebase in its ranges. -/
theorem clockStaysConsistent : Obligations.ClockStaysConsistent := fun _ _ ok h =>
  step_keeps (fun _ _ => id) (fun _ _ => id) (fun _ _ _ hrun => (exec_kept hrun).clock)
    (fun _ _ hrun => (tick_steps hrun).clock) h ok

/-- Settles O57: a setting is written in its range alone, and a page leaves the rotation below its hold count. -/
theorem settingsStayInRange : Obligations.SettingsStayInRange := fun _ _ ok h =>
  step_keeps (fun _ _ => id) (fun _ _ => id) (fun _ _ _ hrun => (exec_kept hrun).settings)
    (fun _ _ hrun => (tick_steps hrun).settings) h ok

/-- Settles O58: a read is queued, held or opened in a running race alone. -/
theorem nothingWaitsBeforeTheGun : Obligations.NothingWaitsBeforeTheGun := fun _ _ ok h =>
  step_keeps (fun _ _ => id) (fun _ _ => id) (fun _ _ _ hrun => (exec_kept hrun).quiet)
    (fun _ _ hrun => (tick_steps hrun).quiet) h ok

/-- Settles O59: the one command that is no `Steps` is a cold reset, which is never due. -/
theorem timeNeverGoesBack : Obligations.TimeNeverGoesBack := by
  intro s t hc h
  obtain ⟨c, rest, hp, hrun⟩ | ⟨c, n, -, hdue, hrun⟩ | ⟨-, -, hrun⟩ := step_next h
  · exact (exec_steps (fun a b he => hc a b rest (he ▸ hp)) hrun).time
  · exact (exec_steps (fun a b he => coldReset_not_due s a b (he ▸ hdue)) hrun).time
  · exact (tick_steps hrun).time

end Sys2Proof.Machine
end

section
/-! SUPPORT. Receiving: arrivals, discards, gaps and framing errors (O7, O8). -/

namespace Sys2Proof.Machine

section Receiving

variable {s : State} {p : Port} {bytes : List Byte}

/-! ### Arrivals (O7) -/

theorem frameArrival_eq (hh : s.held = false) {f : Frame} {rest : List Byte}
    (h : scan ((s.port p).receive bytes s.now).line = .arrived f rest) :
    execFrameArrival p bytes s = .next (arrive p f rest (s.setPort p ((s.port p).receive bytes s.now))) := by
  unfold execFrameArrival
  rw [if_neg (by simp [hh])]
  dsimp only
  rw [setPort_port_same, h]

theorem frameArrival_other (h : ∀ f rest, scan ((s.port p).receive bytes s.now).line ≠ .arrived f rest)
    (hh : s.held = false) : execFrameArrival p bytes s = .next (s.setPort p ((s.port p).receive bytes s.now)) := by
  unfold execFrameArrival
  rw [if_neg (by simp [hh])]
  dsimp only
  rw [setPort_port_same]
  split
  · rename_i f rest hs
    exact absurd hs (h f rest)
  · rfl
  · rfl
  · rfl

theorem setPort_setPort (s : State) (p : Port) (x y : PortState) : (s.setPort p x).setPort p y = s.setPort p y := by
  cases p with
  | a | b | c | d => rfl

/-- A refreshed link ends no waiting. -/
theorem refreshLink_eq (s : State) (p : Port) : s.refreshLink p =
    match p.feed? with
    | some x => s.setFeed x { s.feed x with link := .active, lastFrame := some s.now }
    | none => s := by
  unfold State.refreshLink
  cases p.feed? with
  | none => rfl
  | some x =>
    exact State.updateFeed_of_not_ended fun h => FeedState.waiting_iff.mpr ⟨rfl, (FeedState.waiting_iff.mp h).2⟩

/-- An arrival, its two writes apart: to the feed, and to the port that received the bytes. -/
theorem arrive_eq (s : State) (p : Port) (got : PortState) (f : Frame) (rest : List Byte) :
    arrive p f rest (s.setPort p got) = (s.refreshLink p).setPort p ({ got with line := hunt rest }.join f) := by
  unfold arrive
  rw [refreshLink_eq, refreshLink_eq]
  cases p with
  | a | b | c | d => rfl

theorem arrive_held (f : Frame) (rest : List Byte) (s : State) : (arrive p f rest s).held = s.held := by
  cases p with
  | a | b | c | d => simp [arrive, State.refreshLink, Port.feed?]

/-! ### Discards (O8) -/

theorem discardOn_case {case_ : Scan} (hh : s.held = false) (h : scan ((s.port p).receive bytes s.now).line = case_) :
    discardOn p bytes case_ s = .next (s.setPort p ((s.port p).receive bytes s.now).discardFrame) := by
  unfold discardOn
  simp [ifDue, hh, h]

theorem discardOn_other {case_ : Scan} (hh : s.held = false) (h : scan ((s.port p).receive bytes s.now).line ≠ case_) :
    discardOn p bytes case_ s = .next (s.setPort p ((s.port p).receive bytes s.now)) := by
  unfold discardOn
  simp [ifDue, hh, h]

/-- The state in which a framing error finds the part: the bytes before it are received. -/
theorem framingError_eq (hh : s.held = false) :
    execFramingError p bytes s = .next
      (let got := s.setPort p ((s.port p).receive bytes s.now)
       let t := settleLine p (got.port p).line.length got
       t.setPort p (t.port p).cutFrame) := by
  unfold execFramingError
  exact if_pos (by simp [hh])

/-- Once the bytes are received, a framing error settles what they come to and cuts what is left. -/
theorem framingError_received (hh : s.held = false) {t : State}
    (ht : settleLine p ((s.port p).receive bytes s.now).line.length (s.setPort p ((s.port p).receive bytes s.now))
      = settleLine p (t.port p).line.length t) (hheld : t.held = false) :
    execFramingError p bytes s = execFramingError p [] t := by
  rw [framingError_eq hh, framingError_eq hheld]
  dsimp only
  rw [receive_nil, setPort_port, setPort_port_same, ht]

/-- A framing error on a line that is assembling or hunting cuts it. -/
theorem framingError_partial (hh : s.held = false) (h : scan ((s.port p).receive bytes s.now).line = .partialFrame) :
    execFramingError p bytes s = .next (s.setPort p ((s.port p).receive bytes s.now).cutFrame) := by
  rw [framingError_eq hh]
  dsimp only
  rw [settleLine_of_partial _ (by rwa [setPort_port_same]), setPort_port_same, setPort_setPort]

theorem cutFrame_nil {ps : PortState} (h : ps.line = []) : ps.cutFrame = ps := if_pos h

theorem cutFrame_assembling {ps : PortState} (h : ps.line ≠ []) :
    ps.cutFrame = { ps with line := [], discards := min 4294967295 (ps.discards + 1) } := if_neg h

/-- Settling received bytes takes an arrival at the front first. -/
theorem settleLine_arrived {got : PortState} {f : Frame} {rest : List Byte} (h : scan got.line = .arrived f rest) :
    settleLine p got.line.length (s.setPort p got) =
      settleLine p ((arrive p f rest (s.setPort p got)).port p).line.length (arrive p f rest (s.setPort p got)) := by
  have front : scan ((s.setPort p got).port p).line = .arrived f rest := by rwa [setPort_port_same]
  have shorter := arrive_line_lt front
  rw [setPort_port_same] at shorter
  obtain ⟨n, hn⟩ := Nat.exists_eq_succ_of_ne_zero (Nat.ne_zero_of_lt shorter)
  rw [hn, settleLine, front]
  exact settleLine_enough (by omega) le_rfl

/-- Settling received bytes takes a discard at the front first. -/
theorem settleLine_discard {got : PortState} (h : scan got.line = .badCrc ∨ scan got.line = .badLength) :
    settleLine p got.line.length (s.setPort p got) =
      settleLine p ((s.setPort p got.discardFrame).port p).line.length (s.setPort p got.discardFrame) := by
  have some_line : got.line ≠ [] := by
    intro hl
    rw [hl] at h
    obtain h | h := h <;> cases h
  have shorter := discardFrame_line_lt some_line
  obtain ⟨n, hn⟩ := Nat.exists_eq_succ_of_ne_zero (Nat.ne_zero_of_lt shorter)
  obtain h | h := h
  all_goals
    rw [hn, settleLine, setPort_port_same, setPort_port_same, h, setPort_setPort]
    exact settleLine_enough (by rw [setPort_port_same]; omega) (by rw [setPort_port_same])

end Receiving

/-! ### The statements -/

/-- Settles O7: the bytes are received, after a gap in place of the frame it cut, and a frame they complete arrives. -/
theorem frameArrives : Obligations.FrameArrives := by
  refine ⟨fun ps bytes now => ⟨receive_nil ps now, fun hb hg => ?joins, fun hb hg => ?after⟩, fun s p bytes hh => ⟨?_, ?_⟩⟩
  case joins => exact receive_joins hb (Bool.eq_false_iff.mpr fun h => hg ((gap_iff ps now).mp h))
  case after => exact receive_after_gap hb ((gap_iff ps now).mpr hg)
  · intro f rest h
    exact (frameArrival_eq hh h).trans (by rw [arrive_eq, refreshLink_eq]; rfl)
  · exact fun h => frameArrival_other h hh

/-- Settles O8: a discard by the case its bytes come to; a framing error by what settling the line takes first. -/
theorem framesAreDiscarded : Obligations.FramesAreDiscarded := by
  intro s p bytes hh
  have received (t : State) (h : settleLine p ((s.port p).receive bytes s.now).line.length
      (s.setPort p ((s.port p).receive bytes s.now)) = settleLine p (t.port p).line.length t) (hheld : t.held = false) :=
    framingError_received hh h hheld
  refine ⟨discardOn_case hh, discardOn_other hh, discardOn_case hh, discardOn_other hh, fun h hl => ?cut, fun hl => ?hunting,
    fun f rest h t ht => ?arrived, fun h t ht => ?crc, fun h t ht => ?length, fun hl hs hg => ?gap⟩
  case cut => exact (framingError_partial hh h).trans (by rw [cutFrame_assembling hl])
  case hunting => exact (framingError_partial hh (by rw [hl]; rfl)).trans (by rw [cutFrame_nil hl])
  case arrived =>
    cases (frameArrival_eq hh h).symm.trans ht
    exact received _ (settleLine_arrived h) ((arrive_held f rest _).trans hh)
  case crc =>
    cases (discardOn_case hh h).symm.trans ht
    exact received _ (settleLine_discard (.inl h)) hh
  case length =>
    cases (discardOn_case hh h).symm.trans ht
    exact received _ (settleLine_discard (.inr h)) hh
  case gap =>
    refine (ifDue_of_due ?_).trans (by rw [cutFrame_assembling hl])
    exact gapDue_iff.mpr ⟨hh, hl, hs, hg⟩

end Sys2Proof.Machine
end

section
/-! SUPPORT. The queue of commands and the step on an empty queue: the statements (O1 to O4). -/

namespace Sys2Proof.Machine

/-! ### The step on an empty queue (O2) -/

section EmptyQueue

variable {s t : State} {c : Instr}

theorem advanceTime_next {n : Nat} {f : Timebase → Timebase} (h : s.now + n ≤ maxCourseTime) :
    advanceTime n s f = .next { s with clock := f { s.clock with courseTime := s.now + n } } := if_pos h

theorem advanceTime_ends {n : Nat} {f : Timebase → Timebase} (h : maxCourseTime < s.now + n) :
    advanceTime n s f = .fault .courseTimeEnds := if_neg (Nat.not_le.mpr h)

/-- A millisecond, while course time has one left. -/
theorem tick_next (hh : s.held = false) (hn : s.now < maxCourseTime) :
    tick s = .next { s with
      choices := s.choices + 1
      clock := { s.clock with
        courseTime := s.now + 1
        oscMs := if s.clock.lead < 0 then s.clock.oscMs + 1 else (s.clock.oscMs + 1) % 1000
        xo := s.clock.xo.tick s.choices } } := by
  rw [tick, if_neg (by simp [hh]), advanceTime_next (s := { s with choices := s.choices + 1 }) hn]
  rfl

theorem tick_ends (hh : s.held = false) (hn : maxCourseTime ≤ s.now) : tick s = .fault .courseTimeEnds := by
  rw [tick, if_neg (by simp [hh]), advanceTime_ends (s := { s with choices := s.choices + 1 }) (Nat.lt_succ_of_le hn)]

theorem step_empty (hp : s.pending = []) : step s = idle s := by
  unfold step
  rw [hp]

theorem idle_nothing_due (h : dueEvents s = []) : idle s = tick s := by
  rw [idle, nextDue_none.mpr h]

theorem idle_deferred (h : deferredDue s = true) : idle s = exec .deferredFallback s := by
  rw [idle, nextDue, if_pos h]

/-- A due event is taken in the state itself, or with one free value used. -/
theorem nextDue_state (h : nextDue s = some (c, t)) : t = s ∨ t = { s with choices := s.choices + 1 } := by
  unfold nextDue at h
  split at h
  · cases h
    exact .inl rfl
  · split at h
    · cases h
    · cases h
      exact .inl rfl
    · cases h
      exact .inr rfl

theorem idle_due (h : dueEvents s ≠ []) :
    ∃ c ∈ dueEvents s, idle s = exec c s ∨ idle s = exec c { s with choices := s.choices + 1 } := by
  cases hn : nextDue s with
  | none => exact absurd (nextDue_none.mp hn) h
  | some x =>
    have taken : idle s = exec x.1 x.2 := by rw [idle, hn]
    rw [taken]
    exact ⟨x.1, (nextDue_mem hn).1, (nextDue_state hn).imp (congrArg _) (congrArg _)⟩

/-- A deadline is due for the bib of an open crossing. -/
theorem deadlineExpiry_due {bib : Nat} (hh : s.held = false) :
    .deadlineExpiry bib ∈ dueEvents s ↔ (dueCrossing bib s).isSome = true := by
  have rows : .deadlineExpiry bib ∈ dueEvents s ↔ ∃ x ∈ s.engine.crossings, (dueCrossing x.bib s).isSome = true ∧ bib = x.bib := by
    simp [mem_dueEvents_unasked hh (c := .deadlineExpiry bib) (by simp [requestRows]), mem_lineDue]
  refine rows.trans ⟨fun ⟨x, _, due, hb⟩ => hb ▸ due, fun due => ?_⟩
  obtain ⟨-, -, c, found, -⟩ := dueCrossing_isSome.mp due
  obtain ⟨member, rfl⟩ := Engine.find?_some found
  exact ⟨c, member, due, rfl⟩

/-- A timeout is due for the chip code of an entry of the list. -/
theorem holdTimeoutExpiry_due {chip : Nat} (hh : s.held = false) :
    .holdTimeoutExpiry chip ∈ dueEvents s ↔ (timedOutEntry chip s).isSome = true := by
  have rows : .holdTimeoutExpiry chip ∈ dueEvents s ↔
      ∃ e ∈ s.hold.list, (timedOutEntry e.chip s).isSome = true ∧ chip = e.chip := by
    simp [mem_dueEvents_unasked hh (c := .holdTimeoutExpiry chip) (by simp [requestRows]), mem_lineDue]
  refine rows.trans ⟨fun ⟨x, _, due, hb⟩ => hb ▸ due, fun due => ?_⟩
  obtain ⟨-, e, found, -⟩ := timedOutEntry_isSome.mp due
  obtain ⟨member, rfl⟩ := HoldUnit.find?_some found
  exact ⟨e, member, due, rfl⟩

end EmptyQueue

/-! ### The statements -/

/-- Settles O1: the definition of a step on a queue that is not empty. -/
theorem stepRunsFrontCommand : Obligations.StepRunsFrontCommand := fun s c rest hp => by
  unfold step
  rw [hp]

/-- Settles O2: an empty queue takes a due event or lets a millisecond pass, and an event is due by its own condition. -/
theorem emptyQueueStep : Obligations.EmptyQueueStep := by
  refine ⟨fun s hp => ?_, fun s hh => dueEvents_held hh, fun s hh => ?_⟩
  · rw [step_empty hp]
    refine ⟨fun hh => ?_, fun hh hd => idle_deferred (deferredDue_iff.mpr ⟨hh, hd⟩), idle_due, fun hh hd hn => ?_,
      fun hh hd hn => (idle_nothing_due hd).trans (tick_ends hh hn)⟩
    · exact (idle_nothing_due (dueEvents_held hh)).trans (if_pos hh)
    · exact ⟨Config.xoCycles s.choices, (idle_nothing_due hd).trans (tick_next hh hn)⟩
  · dsimp only
    have due (c : Instr) (hrow : ∀ q, c ∉ requestRows q) := mem_dueEvents_unasked hh hrow
    refine ⟨fun p bytes => ?arrival, fun p bytes => ?crc, fun p bytes => ?length, fun p => ?gap, fun p c hc =>
      request_due hh hc, ?judgement, fun bib => (deadlineExpiry_due hh).trans (dueCrossing_isSome.trans (and_iff_right
      hh)), fun x => ?silence, fun chip => (holdTimeoutExpiry_due hh).trans (timedOutEntry_isSome.trans (and_iff_right
      hh)), ?move, ?quiet, fun r => ?missing, ?qualify, ?switch, ?slew, ?deferred, ?write, fun cause => ?warm, fun p
      bytes => ?line, ?sync, ?xoGap, fun n => ?window, coldReset_not_due s, ?edge, fun bib x => ?record, fun x =>
      ?block⟩
    case arrival =>
      simp [due (.frameArrival p bytes) (by simp [requestRows]), mem_lineDue, and_comm]
    case crc =>
      simp [due (.crcDiscard p bytes) (by simp [requestRows]), mem_lineDue, and_comm]
    case length =>
      simp [due (.lengthDiscard p bytes) (by simp [requestRows]), mem_lineDue, and_comm]
    case gap =>
      simp [due (.gapExpiry p) (by simp [requestRows]), mem_lineDue, gapDue_iff, hh]
      tauto
    case judgement =>
      simp [due .readJudgement (by simp [requestRows]), mem_lineDue, nextJudgement_isSome, hh]
    case silence =>
      simp [due (.silenceExpiry x) (by simp [requestRows]), mem_lineDue, silenceDue_iff, hh]
    case move =>
      simp [due .releaseMove (by simp [requestRows]), mem_lineDue, moveDue_isSome, hh]
    case quiet =>
      simp [due .quietExpiry (by simp [requestRows]), mem_lineDue, quietDue_iff, hh]
    case missing =>
      simp [due (.missingPeriod r) (by simp [requestRows]), mem_lineDue, missingDue_iff, hh]
    case qualify =>
      simp [due .xoQualify (by simp [requestRows]), mem_lineDue, xoDue_iff, hh]
    case switch =>
      simp [due .switchCompletion (by simp [requestRows]), mem_lineDue, secondDue_iff, Timebase.readyRequest_isSome, hh]
      tauto
    case slew =>
      simp [due .leadSlew (by simp [requestRows]), mem_lineDue, slewDue_iff, ← Bool.not_eq_true, switchWaits_iff, hh]
    case deferred =>
      simp [due .deferredFallback (by simp [requestRows]), mem_lineDue, deferredDue_iff, hh]
    case write =>
      simp [due .setupWriteEnd (by simp [requestRows]), mem_lineDue, writeDue_iff]
    case warm =>
      simp [due (.warmRestart cause) (by simp [requestRows]), mem_lineDue, and_comm]
    case line =>
      simp [due (.framingError p bytes) (by simp [requestRows]), due (.frameSent p) (by simp [requestRows]), mem_lineDue]
    case sync =>
      simp [due .syncMark (by simp [requestRows]), mem_lineDue]
    case xoGap =>
      simp [due .xoGap (by simp [requestRows]), mem_lineDue]
    case window =>
      simp [due (.comparisonWindowEnd n) (by simp [requestRows]), mem_lineDue]
    case edge =>
      simp [due .resetRisingEdge (by simp [requestRows]), mem_lineDue]
    case record =>
      simp [due (.recordUpset bib x) (by simp [requestRows]), mem_lineDue]
    case block =>
      simp [due (.setupBlockChange x) (by simp [requestRows]), mem_lineDue]

/-- Settles O3: each command comes to a next state, by its form; the queue is kept by `exec_kept`. -/
theorem commandsComplete : Obligations.CommandsComplete := fun c s =>
  (exec_answers c s).imp_left fun ⟨t, ht⟩ => ⟨t, ht, (exec_kept ht).pending⟩

/-- A line whose bytes are no case of a discard is left as it is. -/
theorem discardOn_idle {s : State} {p : Port} {case_ : Scan} (h : scan (s.port p).line ≠ case_) :
    discardOn p [] case_ s = .next s := by
  cases hh : s.held with
  | true => exact ifDue_of_not (by simp [hh])
  | false => exact (discardOn_other hh (by rwa [receive_nil])).trans (by rw [receive_nil, setPort_port])

/-- Settles O4: a row whose condition fails is the state itself, condition by condition. -/
theorem undueCommandsChangeNothing : Obligations.UndueCommandsChangeNothing := by
  intro s
  refine ⟨fun c hh hcold hedge hrecord hblock => exec_held hh hcold hedge hrecord hblock,
    fun hh => ifDue_of_not (by simp [hh]), fun p c hc h => request_idle hc h, fun p => ⟨?arrival, ?crc, ?length⟩,
    fun p h => ?framing, fun p h => ifDue_of_not ?gap, fun p h => frameSent_idle (.inr h),
    fun h => readJudgement_idle ?judgement, fun bib h => deadlineExpiry_idle ?deadline, fun x h => ifDue_of_not ?silence,
    fun chip h => holdTimeoutExpiry_idle ?timeout, fun h => releaseMove_idle ?move, fun h => ifDue_of_not ?quiet,
    fun r h => ifDue_of_not ?missing, fun h => ifDue_of_not ?qualify, fun h => ifDue_of_not ?switch,
    fun h => leadSlew_idle ?slew, fun r hl hz ht hr hq => leadSlew_idle ?wait, fun h => ifDue_of_not ?deferred,
    setupWriteEnd_idle, fun h => ifDue_of_not (by simp [h]), fun bib content h => ifDue_of_not ?record⟩
  case arrival =>
    intro h
    cases hh : s.held with
    | true => exact if_pos hh
    | false => exact (frameArrival_other (by rwa [receive_nil]) hh).trans (by rw [receive_nil, setPort_port])
  case crc => exact discardOn_idle
  case length => exact discardOn_idle
  case framing =>
    cases hh : s.held with
    | true => exact ifDue_of_not (by simp [hh])
    | false =>
      refine (framingError_partial hh (by rw [receive_nil, h]; rfl)).trans ?_
      rw [receive_nil, cutFrame_nil h, setPort_port]
  case gap =>
    rintro due
    obtain ⟨-, hl, hs, hg⟩ := gapDue_iff.mp due
    rcases h with h | h | h
    · exact hl h
    · exact h hs
    · exact absurd hg (Nat.not_lt.mpr h)
  case judgement =>
    intro due
    obtain ⟨-, he, hc, hq⟩ := nextJudgement_isSome.mp due
    rcases h with h | h | ⟨ha, hb, hr⟩
    · exact absurd hc (Nat.not_lt.mpr h)
    · simp [h] at he
    · simp [ha, hb, hr] at hq
  case deadline =>
    intro due
    obtain ⟨-, he, c, found, hd⟩ := dueCrossing_isSome.mp due
    rcases h with h | h
    · exact absurd hd (Nat.not_le.mpr (h c found))
    · simp [h] at he
  case silence =>
    intro due
    obtain ⟨-, hl, t, last, ht⟩ := silenceDue_iff.mp due
    rcases h with h | h
    · cases h.symm.trans hl
    · exact absurd ht (Nat.not_le.mpr (h t last))
  case timeout =>
    intro due
    obtain ⟨-, e, found, hr, ht⟩ := timedOutEntry_isSome.mp due
    rcases h e found with h | h
    · cases h.symm.trans hr
    · exact absurd ht (Nat.not_le.mpr h)
  case move =>
    intro due
    obtain ⟨-, hfree, e, member, hr⟩ := moveDue_isSome.mp due
    rcases h with h | h
    · cases (h e member).symm.trans hr
    · exact absurd hfree (Nat.not_lt.mpr h)
  case quiet =>
    intro due
    obtain ⟨-, t, last, ht⟩ := quietDue_iff.mp due
    exact absurd ht (Nat.not_le.mpr (h t last))
  case missing => exact fun due => absurd (missingDue_iff.mp due).2 (Nat.not_le.mpr h)
  case qualify =>
    intro due
    obtain ⟨-, hstate, hcount⟩ := xoDue_iff.mp due
    rcases h with h | h
    · exact h hstate
    · exact absurd hcount (Nat.not_le.mpr h)
  case switch =>
    intro due
    obtain ⟨-, hz, ht, hd⟩ := secondDue_iff.mp due
    rcases h with h | h | h
    · exact h hz
    · exact ht h
    · cases h.symm.trans hd
  case slew =>
    intro due
    obtain ⟨-, hslew⟩ := slewDue_iff.mp due
    omega
  case wait =>
    intro due
    obtain ⟨hh, ⟨hpos, -⟩ | ⟨-, -, hw⟩⟩ := slewDue_iff.mp due
    · omega
    · exact absurd (switchWaits_iff.mpr ⟨hh, hz, ht, r, hr, hq⟩) (by simp [hw])
  case deferred => simp [deferredDue_iff, h]
  case record =>
    rw [Bool.and_eq_true, bibOk_iff]
    rintro ⟨⟨hlow, hhigh⟩, hr⟩
    rcases h with h | h | h
    · omega
    · omega
    · cases h.symm.trans hr

end Sys2Proof.Machine
end

section
/-! SUPPORT. Requests answered and refused, and the machine after reset: the statements (O5, O6, O60). -/

namespace Sys2Proof.Machine

section Taking

variable {s t : State} {p : Port} {f : Frame} {rest : List Frame}

/-- Content fits a layout for the kinds of the table alone. -/
theorem fits_kind (h : f.fits = true) : f.kind ∈ Kind.requests := by
  unfold Frame.fits at h
  dsimp only at h
  split at h
  case h_36 => cases h
  all_goals exact kind_mem_requests (by assumption) (by decide)

theorem requestOfNoKind_of_asks (asks : s.Asks p f rest) (hk : f.kind ∉ Kind.requests) :
    execRequestOfNoKind p s = .next ((s.taken p rest).refuse p f .kind) := by
  rw [execRequestOfNoKind, takeFrame_of_asks asks (by simpa using hk)]
  rfl

theorem served_of_unfit (h : Served p f s t) (hf : f.fits = false) : t = s.refuse p f .format := by
  have unfit {r : Reply} (hc : Checked p f s r) : r = .error .format := by
    cases hc with
    | format => rfl
    | role fits => exact absurd fits (by simp [hf])
    | block fits => exact absurd fits (by simp [hf])
  cases h with
  | refused hc => cases unfit hc; rfl
  | accepted last hc => cases unfit hc
  | stored hk _ hc => cases unfit hc

theorem served_of_other_role (h : Served p f s t) (hf : f.fits = true) (hr : Kind.taken p.role f.kind = false) :
    t = s.refuse p f .role := by
  have other {r : Reply} (hc : Checked p f s r) : r = .error .role := by
    cases hc with
    | format unfit => exact absurd hf (by simp [unfit])
    | role => rfl
    | block _ taken => exact absurd taken (by simp [hr])
  cases h with
  | refused hc => cases other hc; rfl
  | accepted last hc => cases other hc
  | stored hk _ hc => cases other hc

end Taking

theorem not_taken_feed {k : Byte} (h : k ∉ [Kind.report, Kind.matState, Kind.time, Kind.describe]) :
    Kind.taken .feed k = false := by
  simp only [List.mem_cons, List.not_mem_nil, or_false, not_or] at h
  obtain ⟨hreport, hmat, htime, hdescribe⟩ := h
  simp [Kind.taken, Kind.ofAll, Kind.ofFeed, *]

theorem not_taken_screen {k : Byte} (h : k ∉ [Kind.page, Kind.time, Kind.describe]) : Kind.taken .screen k = false := by
  simp only [List.mem_cons, List.not_mem_nil, or_false, not_or] at h
  obtain ⟨hpage, htime, hdescribe⟩ := h
  simp [Kind.taken, Kind.ofAll, Kind.ofScreen, *]

theorem not_taken_control {k : Byte} (h : k ∈ [Kind.report, Kind.matState, Kind.page]) : Kind.taken .control k = false := by
  simp only [List.mem_cons, List.not_mem_nil, or_false] at h
  rcases h with rfl | rfl | rfl <;> decide

section Ending

variable {s t u : State} {p : Port} {f : Frame} {rest : List Frame}

theorem taken_port (p : Port) (rest : List Frame) (s : State) : (s.taken p rest).port p = { s.port p with buffer := rest } :=
  setPort_port_same s p _

theorem answer_buffer (u : State) (p : Port) (a : Frame) (last : Bool) :
    ((u.answer p a last).port p).buffer = (u.port p).buffer := by
  rw [State.answer, setPort_port_same]
  rfl

/-- The block's action leaves the port as the take left it, but for notices. -/
theorem checked_port {x : List Byte} (h : Checked p f (s.taken p rest) (.ok (t, x))) :
    (t.port p).buffer = rest ∧ (t.port p).answers = (s.port p).answers := by
  obtain ⟨buffer, -, answers⟩ := (checked_acts h).announced.get p
  have taken := taken_port p rest s
  exact ⟨buffer.trans (congrArg PortState.buffer taken), answers.trans ((congrArg PortState.answers taken).trans rfl)⟩

end Ending

/-! ### The statements -/

/-- Settles O6: the checks of the link come in their order, before the block. -/
theorem refusalOrder : Obligations.RefusalOrder := by
  intro s p f rest asks refused
  have served (hk : f.kind ∈ Kind.requests) := request_served asks hk
  have role (hf : f.fits = true) (hr : Kind.taken p.role f.kind = false) : refused .role := by
    obtain ⟨t, runs, ht⟩ := request_served asks (fits_kind hf)
    exact runs.trans (congrArg _ (served_of_other_role ht hf hr))
  refine ⟨requestOfNoKind_of_asks asks, fun hk => ?_, fun hk hf => ?_, fun hf hp hk => role hf (hp ▸ not_taken_feed hk),
    fun hf hp hk => role hf (hp ▸ not_taken_screen hk), fun hf hp hk => role hf (hp ▸ not_taken_control hk)⟩
  · exact (congrArg (exec · s) (requestOf_noKind hk)).trans (requestOfNoKind_of_asks asks hk)
  · obtain ⟨t, runs, ht⟩ := request_served asks hk
    exact runs.trans (congrArg _ (served_of_unfit ht hf))

/-- Settles O5: a request of a kind of the table is served, any other is refused KIND. -/
theorem requestsAreAnswered : Obligations.RequestsAreAnswered := by
  intro s p f rest asks
  by_cases hk : f.kind ∈ Kind.requests
  · obtain ⟨t, runs, served⟩ := request_served asks hk
    refine ⟨t, runs, ?_⟩
    cases served with
    | refused => exact ⟨(answer_buffer _ _ _ _).trans (by rw [taken_port]), .inl ⟨_, rfl⟩⟩
    | @accepted u results last hc =>
      obtain ⟨buffer, answers⟩ := checked_port hc
      exact ⟨(answer_buffer _ _ _ _).trans buffer, .inr (.inl ⟨u, results, last, rfl, answers⟩)⟩
    | @stored u results hstore hports hc =>
      have same_port : u.port p = (s.taken p rest).port p := congrArg (Ports.get · p) hports
      rw [setPort_port_same, same_port, taken_port]
      exact ⟨rfl, .inr (.inr ⟨hstore, rfl, rfl⟩)⟩
  · refine ⟨_, (congrArg (exec · s) (requestOf_noKind hk)).trans (requestOfNoKind_of_asks asks hk), ?_, .inl ⟨_, rfl⟩⟩
    exact (answer_buffer _ _ _ _).trans (by rw [taken_port])

/-- Settles O60: what the rising edge keeps, from a cold reset of a new part. -/
theorem resetMeetsTheInvariants : Obligations.ResetMeetsTheInvariants := by
  have edge : Steps (State.cold .baud115200 SetupBlock.unwritten) State.reset := resetRisingEdge_steps rfl
  exact ⟨edge.ports (by decide), edge.stores (by decide), edge.faults (cold_faultsOk _ _), edge.clock (by decide),
    by decide, fun _ => ⟨rfl, rfl, rfl, rfl, rfl⟩, Laws.reset_is_cold_start _ rfl rfl rfl⟩

end Sys2Proof.Machine
end

section
/-! SUPPORT. From the take of a read to its crossing's posting, and how a hold ends (O19, O21, O22, O25). -/

namespace Sys2Proof.Machine

/-! ### The intake arbiter (O19) -/

section Arbiter

variable {s t u : State} {r : JudgedRead} {turn : Turn}

/-- Where the queue of a turn stands empty. -/
def State.NoRead (s : State) : Turn → Prop
  | .feedA => s.feeds.a.queue = []
  | .feedB => s.feeds.b.queue = []
  | .release => s.hold.release = []

theorem takeFrom_none (h : s.NoRead turn) : takeFrom s turn = none := by
  cases turn with
  | feedA | feedB | release => rw [takeFrom, show _ = [] from h]

/-- The take from the first queue along the cycle that holds a read. -/
theorem arbiterTake_eq (h : takeFrom s turn = some (r, t))
    (order : s.engine.nextTurn = turn ∨ (s.engine.nextTurn.next = turn ∧ s.NoRead s.engine.nextTurn) ∨
      (s.engine.nextTurn.next.next = turn ∧ s.NoRead s.engine.nextTurn ∧ s.NoRead s.engine.nextTurn.next)) :
    arbiterTake s = some (r, { t with engine := { t.engine with nextTurn := turn.next } }) := by
  unfold arbiterTake
  rcases order with rfl | ⟨rfl, first⟩ | ⟨rfl, first, second⟩
  · simp [h]
  · simp [h, takeFrom_none first]
  · simp [h, takeFrom_none first, takeFrom_none second]

theorem readJudgement_take {e : Nat} (hh : s.held = false) (he : s.clock.epoch = some e)
    (free : s.engine.crossings.length < 2048) (h : arbiterTake s = some (r, t)) :
    execReadJudgement s = .next (judge r (s.now - e) t) := by
  have not_full : ¬ (s.held || decide (crossingCap ≤ s.engine.crossings.length)) = true := by
    simp only [hh, Bool.false_or, decide_eq_true_eq]
    exact Nat.not_le.mpr free
  rw [execReadJudgement, nextJudgement, if_neg not_full, State.raceNow?_running he, h, Option.getD_some]

end Arbiter

/-- Settles O19: the queue taken is the first along the cycle that holds a read. -/
theorem arbiterTakes : Obligations.ArbiterTakes := by
  intro s e hh he turn noA noB noR judged
  refine ⟨fun full => readJudgement_idle ?full, fun ha hb hr => readJudgement_idle ?empty, fun r rest free hq order => ?feedA,
    fun r rest free hq order => ?feedB, fun r rest free hq order => ?release⟩
  case full => exact fun due => Nat.not_lt.mpr full (nextJudgement_isSome.mp due).2.2.1
  case empty => simp [nextJudgement_isSome, show s.feeds.a.queue = [] from ha, show s.feeds.b.queue = [] from hb,
      show s.hold.release = [] from hr]
  case feedA =>
    have take : takeFrom s .feedA = some (r.judged .a, s.setFeed .a { s.feeds.a with queue := rest }) := by rw [takeFrom, hq]
    refine readJudgement_take hh he free (arbiterTake_eq take ?_)
    rcases order with ht | ⟨ht, hr⟩ | ⟨ht, hb, hr⟩
    · exact .inl ht
    · rw [show s.engine.nextTurn = .release from ht]
      exact .inr (.inl ⟨rfl, hr⟩)
    · rw [show s.engine.nextTurn = .feedB from ht]
      exact .inr (.inr ⟨rfl, hb, hr⟩)
  case feedB =>
    have take : takeFrom s .feedB = some (r.judged .b, s.setFeed .b { s.feeds.b with queue := rest }) := by rw [takeFrom, hq]
    refine readJudgement_take hh he free (arbiterTake_eq take ?_)
    rcases order with ht | ⟨ht, ha⟩ | ⟨ht, hr, ha⟩
    · exact .inl ht
    · rw [show s.engine.nextTurn = .feedA from ht]
      exact .inr (.inl ⟨rfl, ha⟩)
    · rw [show s.engine.nextTurn = .release from ht]
      exact .inr (.inr ⟨rfl, hr, ha⟩)
  case release =>
    have take : takeFrom s .release = some (r.judged, { s with hold := { s.hold with release := rest } }) := by
      rw [takeFrom, hq]
    refine readJudgement_take hh he free (arbiterTake_eq take ?_)
    rcases order with ht | ⟨ht, hb⟩ | ⟨ht, ha, hb⟩
    · exact .inl ht
    · rw [show s.engine.nextTurn = .feedB from ht]
      exact .inr (.inl ⟨rfl, hb⟩)
    · rw [show s.engine.nextTurn = .feedA from ht]
      exact .inr (.inr ⟨rfl, ha, hb⟩)

/-! ### Steps 6 to 9 (O21) -/

section Placing

variable {s : State} {bib : Nat} {rd : RecordFields} {r : JudgedRead}

theorem placeRead_merges {c : OpenCrossing} (h : s.engine.find? bib = some c) :
    placeRead bib rd r s = { s.count r.feed .merged with engine := s.engine.replace (c.merge r s.now) } := by
  rw [placeRead, h]
  rfl

theorem placeRead_new (h : s.engine.find? bib = none) : placeRead bib rd r s =
    if strayRead rd s.engine.point r.time then s.count r.feed .stray
    else if s.engine.point.passes ≤ rd.made then s.count r.feed .excess
    else openCrossing bib rd r s := by
  rw [placeRead, h]

theorem strayRead_iff (point : PointSettings) (time : Nat) : strayRead rd point time = true ↔
    1 ≤ rd.made ∧ ∃ t, rd.last = some t ∧ time < t + point.rearmGap * 60000 := by
  simp [strayRead, Option.any_eq_true]

/-- A merge, with the bound that the second feed's first sight brings forward (R54). -/
theorem OpenCrossing.merge_eq (c : OpenCrossing) (r : JudgedRead) (now : Nat) :
    c.merge r now =
      let isA := decide (r.feed = .a)
      let isB := decide (r.feed = .b)
      { c with
        time := min c.time r.time, seenA := c.seenA || isA, seenB := c.seenB || isB
        quality := c.quality.worse r.quality, held := c.held || r.held
        deadline := if (c.seenA || isA) && (c.seenB || isB) && !(c.seenA && c.seenB)
          then min c.deadline (max now (c.openedAt + 1000)) else c.deadline } := by
  have same (f : Feed) : (r.feed == f) = decide (r.feed = f) := by cases r.feed <;> cases f <;> rfl
  unfold OpenCrossing.merge
  dsimp only
  rw [same, same]
  split <;> rfl

theorem openedCrossing_eq (now settle : Nat) (waiting : Bool) : openedCrossing bib rd r now settle waiting =
    { bib := bib, pass := rd.made + 1, opener := r.feed, seenA := decide (r.feed = .a), seenB := decide (r.feed = .b)
      time := r.time, quality := r.quality, held := r.held, openedAt := now
      deadline := now + if waiting then settle else 1000 } := by
  unfold openedCrossing
  cases r.feed <;> rfl

/-- The state that an opening leaves, before it is seen whether the table is full. -/
def State.opened (s : State) (bib : Nat) (rd : RecordFields) (r : JudgedRead) : State :=
  { s.count r.feed .opened with engine := { s.engine with crossings := s.engine.crossings ++
      [openedCrossing bib rd r s.now s.engine.point.settleWindow (s.feed r.feed.other).waiting] } }

theorem openCrossing_eq : openCrossing bib rd r s =
    if s.engine.crossings.length + 1 = 2048 then raiseFault .crossingFull bib (s.opened bib rd r) else s.opened bib rd r := by
  have full : (s.opened bib rd r).engine.crossings.length = crossingCap ↔ s.engine.crossings.length + 1 = 2048 := by
    rw [State.opened, List.length_append, List.length_singleton]
    rfl
  exact if_congr full rfl rfl

end Placing

/-- Settles O21: the step that applies is the first whose condition holds. -/
theorem readIsPlaced : Obligations.ReadIsPlaced := by
  intro s bib rd r isA isB stray
  refine ⟨fun c h => ?merge, fun h hs => ?stray, fun h hs he => ?excess, fun h hs he => ?opening⟩
  case merge => exact (placeRead_merges h).trans (by rw [OpenCrossing.merge_eq]; rfl)
  case stray => rw [placeRead_new h, if_pos ((strayRead_iff _ _).mpr hs)]
  case excess => rw [placeRead_new h, if_neg ((strayRead_iff _ _).not.mpr hs), if_pos he]
  case opening =>
    intro waiting c opened
    have opens : placeRead bib rd r s = openCrossing bib rd r s := by
      rw [placeRead_new h, if_neg ((strayRead_iff _ _).not.mpr hs), if_neg (Nat.not_le.mpr he)]
    have entry : openedCrossing bib rd r s.now s.engine.point.settleWindow (s.feed r.feed.other).waiting = c := by
      rw [openedCrossing_eq, if_congr FeedState.waiting_iff rfl rfl]
    have state : s.opened bib rd r = opened := by rw [State.opened, entry]
    rw [opens, openCrossing_eq, state]
    exact ⟨fun hn => if_neg hn, fun hn => if_pos hn⟩

/-! ### Postings (O22) -/

section Flags

theorem SplitFlags.byte_eq_bits (f : SplitFlags) (amended : Bool) :
    f.byte amended = Nat.bit f.featured (Nat.bit f.bothFeeds (Nat.bit f.approx (Nat.bit f.late (Nat.bit f.held
      (Nat.bit f.noStart (Nat.bit amended 0)))))) := by
  simp only [byte, ← yesNo_add_double]
  omega

theorem SplitFlags.byte_lt (f : SplitFlags) (amended : Bool) : f.byte amended < 128 := by
  have featured := yesNo_lt f.featured
  have both := yesNo_lt f.bothFeeds
  have approx := yesNo_lt f.approx
  have late := yesNo_lt f.late
  have held := yesNo_lt f.held
  have start := yesNo_lt f.noStart
  have amend := yesNo_lt amended
  unfold byte
  omega

end Flags

section Posting

variable {s : State}

theorem dueCrossing_some {bib e : Nat} {c : OpenCrossing} (hh : s.held = false) (he : s.clock.epoch = some e)
    (h : s.engine.find? bib = some c) (hd : c.deadline ≤ s.now) : dueCrossing bib s = some (c, s.now - e) := by
  rw [dueCrossing, if_neg (by simp [hh]), h, State.raceNow?_running he]
  exact if_pos hd

theorem deadlineExpiry_posts {bib e : Nat} {c : OpenCrossing} (hh : s.held = false) (he : s.clock.epoch = some e)
    (h : s.engine.find? bib = some c) (hd : c.deadline ≤ s.now) :
    execDeadlineExpiry bib s = .next (settleCrossing c (s.now - e) s) := by
  rw [execDeadlineExpiry, dueCrossing_some hh he h hd]

theorem settleCrossing_eq (c : OpenCrossing) (now : Nat) (s : State) : settleCrossing c now s =
    { (post c.input now s).2 with
      engine := { s.engine with crossings := s.engine.crossings.filter (fun d => d.bib != c.bib) } } := by
  rw [settleCrossing, Engine.free, post_engine]

/-- The figures written out, by the distance of the pass and the runner's start time (R86 to R88). -/
theorem figures_eq (point : PointSettings) (pass time gun : Nat) (start : Option Nat) :
    figures point pass time gun start =
      let chip := match start with | some x => time - x | none => time - gun
      let distance := if pass ≤ 1 then point.distance1 else point.distance2
      ⟨pass, time, time - gun, chip, min 4294967295 (chip * 1000 / distance)⟩ := by
  cases start with
  | none | some x => rfl

/-- The flags written out (R89). -/
theorem postingFlags_eq (point : PointSettings) (rd : RecordFields) (time now : Nat) (q : Quality) (both held : Bool) :
    postingFlags point rd time now q both held =
      ⟨rd.featured, both, q = .holdover ∨ q = .localRc, decide (time + point.lateLimit * 1000 < now), held,
        rd.start = none⟩ := by
  have approx : q.approx = decide (q = .holdover ∨ q = .localRc) := by cases q <;> rfl
  have start : rd.start.isNone = decide (rd.start = none) := by cases rd.start <;> rfl
  rw [postingFlags, approx, start]
  rfl

/-- What a posting came to, by the record as read. -/
theorem post_fst (i : PostInput) (raceNow : Nat) (s : State) :
    (post i raceNow s).1 =
      let rd := (readChecked i.bib s).1
      { seq := s.log.newest + 1
        place := (readChecked i.bib s).2.dir.place i.pass rd.division + 1
        figures := figures s.engine.point i.pass i.time ((s.dir.waveGun rd.wave).getD 0) rd.start
        flags := postingFlags s.engine.point rd i.time raceNow i.quality i.bothFeeds i.held } := by
  unfold post
  dsimp only
  rw [readChecked_waveGun, readChecked_log, readChecked_engine]

/-- What a posting writes: the place counter and the record, the log, and the board unless it is LATE. -/
theorem post_snd (i : PostInput) (raceNow : Nat) (s : State) :
    (post i raceNow s).2 =
      let rd := (readChecked i.bib s).1
      let t := (readChecked i.bib s).2
      let posted := (post i raceNow s).1
      { t with
        dir := (t.dir.setPlace i.pass rd.division posted.place).write i.bib
          { rd with made := min 2 (rd.made + 1), last := some i.time }
        log := s.log.append i.kind i.bib (some posted.figures) (some posted.place) posted.flags
        board := if posted.flags.late then s.board else s.board.offer s.now (posted.board i.bib rd) } := by
  have now : (readChecked i.bib s).2.now = s.now := congrArg Timebase.courseTime (readChecked_clock s i.bib)
  unfold post
  dsimp only
  rw [readChecked_log, readChecked_board, now]

end Posting

/-- Settles O22: a due crossing is posted with its own inputs; a posting by its definition, the flags by their bits. -/
theorem crossingIsPosted : Obligations.CrossingIsPosted := by
  refine ⟨fun s bib e c hh he h hd => ?settled, fun s i raceNow => ⟨?posted, ?state⟩, fun f amended => ?flags⟩
  case settled =>
    obtain ⟨-, rfl⟩ := Engine.find?_some h
    exact (deadlineExpiry_posts hh he h hd).trans (congrArg _ (settleCrossing_eq c _ s))
  case posted =>
    rw [post_fst]
    dsimp only
    rw [figures_eq, postingFlags_eq] <;> rfl
  case state =>
    rw [post_snd, post_fst]
    dsimp only
    rw [figures_eq, postingFlags_eq] <;> rfl
  case flags =>
    intro byte
    refine ⟨f.byte_lt amended, ?_⟩
    rw [show byte = _ from f.byte_eq_bits amended]
    simp only [Nat.testBit_bit_zero, Nat.testBit_bit_succ, and_self]

/-! ### Holds (O25) -/

section Holds

variable {s : State}

theorem holdTimeoutSet_refuses {minutes : Nat} (h : minutes = 0 ∨ 60 < minutes) :
    holdTimeoutSet minutes s = .error .range := if_pos h

theorem holdTimeoutSet_sets {minutes : Nat} (hlow : 1 ≤ minutes) (hhigh : minutes ≤ 60) :
    holdTimeoutSet minutes s = .ok ({ s with hold := { s.hold with timeout := minutes } }, le 2 minutes) :=
  if_neg (by omega)

theorem timedOutEntry_some {chip : Nat} {e : HoldEntry} (hh : s.held = false) (h : s.hold.find? chip = some e)
    (hr : e.releasing = false) (ht : e.enteredAt + s.hold.timeout * 60000 ≤ s.now) : timedOutEntry chip s = some e := by
  rw [timedOutEntry, if_neg (by simp [hh]), h]
  simp [Option.filter, HoldEntry.expired, hr, ht]

theorem moveDue_some {older newer : List HoldEntry} {e : HoldEntry} (hh : s.held = false)
    (h : s.hold.list = older ++ e :: newer) (ho : ∀ x ∈ older, x.releasing = false) (hr : e.releasing = true)
    (free : s.hold.release.length < 64) : moveDue s = some e := by
  have room : ¬ (s.held || decide (releaseCap ≤ s.hold.release.length)) = true := by
    simp only [hh, Bool.false_or, decide_eq_true_eq]
    exact Nat.not_le.mpr free
  rw [moveDue, if_neg room, h, List.find?_append, List.find?_eq_none.mpr (by simpa using ho)]
  simp [hr]

/-- The entry of a chip code that no other entry has, taken off the list. -/
theorem filter_other_chips {older newer : List HoldEntry} {e : HoldEntry} (h : ∀ x ∈ older ++ newer, x.chip ≠ e.chip) :
    (older ++ e :: newer).filter (fun x => x.chip != e.chip) = older ++ newer := by
  have others : ∀ x ∈ older ++ newer, (x.chip != e.chip) = true := fun x hx => by simpa using h x hx
  have kept (l : List HoldEntry) (hl : ∀ x ∈ l, x ∈ older ++ newer) : l.filter (fun x => x.chip != e.chip) = l :=
    List.filter_eq_self.mpr fun x hx => others x (hl x hx)
  rw [List.filter_append, List.filter_cons_of_neg (by simp), kept older fun x hx => List.mem_append_left _ hx,
    kept newer fun x hx => List.mem_append_right _ hx]

end Holds

/-- Settles O25: the setting, the expiry and the move by the entry that each of them finds. -/
theorem holdsLeaveTheList : Obligations.HoldsLeaveTheList := by
  refine ⟨fun s => ⟨fun f rest minutes asks hk hl => ⟨fun h => ?range, fun hlow hhigh => ?set⟩,
    fun chip e hh h => ⟨fun hr ht => ?expires, fun hk => holdTimeoutExpiry_idle ?kept⟩⟩,
    fun s hh => ⟨fun older e newer h ho hr hc free => ?moves, fun full => releaseMove_idle ?full⟩⟩
  case range =>
    exact (serve_control holdTimeoutSet asks hk hl (by decide)).trans (congrArg _ (answered_refused (holdTimeoutSet_refuses h)))
  case set =>
    exact (serve_control holdTimeoutSet asks hk hl (by decide)).trans
      (congrArg _ (answered_accepted (holdTimeoutSet_sets hlow hhigh)))
  case expires =>
    have removes : execHoldTimeoutExpiry chip s =
        .next { s.count e.feed .timedOut with hold := s.hold.remove chip } := by
      rw [execHoldTimeoutExpiry, timedOutEntry_some hh h hr ht]
      rfl
    exact removes.trans (by rw [HoldUnit.remove_eq])
  case kept =>
    intro due
    obtain ⟨-, d, found, hr, ht⟩ := timedOutEntry_isSome.mp due
    cases h.symm.trans found
    rcases hk with hk | hk
    · cases hk.symm.trans hr
    · exact absurd ht (Nat.not_le.mpr hk)
  case moves =>
    have moved : s.hold.moveOut e = { s.hold with
        list := older ++ newer
        release := s.hold.release ++ [e.released]
        holdOver := if older ++ newer = [] then false else s.hold.holdOver } := by
      rw [HoldUnit.moveOut, HoldUnit.remove_eq, h, filter_other_chips hc]
    have moves : execReleaseMove s = .next { s with hold := s.hold.moveOut e } := by
      rw [execReleaseMove, moveDue_some hh h ho hr free]
    exact moves.trans (by rw [moved]; rfl)
  case full => exact fun due => Nat.not_lt.mpr full (moveDue_isSome.mp due).2.1

end Sys2Proof.Machine
end

section
/-! SUPPORT. The race clock's marks, failures, switches and requests (O32, O34 to O39). -/

namespace Sys2Proof.Machine

/-! ### Marks (O32) -/

section Marks

variable {s : State} {r : Reference}

/-- The mark's own writes: the reference is this mark, the watch is set anew (R131). -/
def State.marked (s : State) (r : Reference) : State :=
  { s with clock := s.clock.setRef r { s.clock.ref r with reference := some s.now, watch := s.now + 1500 } }

theorem mark_eq (r : Reference) (s : State) : mark r s =
    match (s.clock.ref r).period r s.now with
    | none => s.marked r
    | some true => setLead r (judgeRef r true (s.marked r))
    | some false => judgeRef r false (s.marked r) := rfl

theorem mark_first (h : (s.clock.ref r).reference = none) : mark r s = s.marked r := by
  rw [mark_eq, RefState.period, h, Option.map_none]

theorem mark_period {t : Nat} (h : (s.clock.ref r).reference = some t) : mark r s =
    if goodPeriod r (s.now - t) then setLead r (judgeRef r true (s.marked r)) else judgeRef r false (s.marked r) := by
  rw [mark_eq, RefState.period, h, Option.map_some]
  cases goodPeriod r (s.now - t) <;> rfl

theorem goodPeriod_iff (r : Reference) (period : Nat) : goodPeriod r period = true ↔
    match r with
    | .sync => 995 ≤ period ∧ period ≤ 1005
    | .beacon => 950 ≤ period ∧ period ≤ 1050 := by
  cases r <;> simp [goodPeriod]

theorem setLead_set (hc : s.clock.current = r.source) (hq : (s.clock.ref r).state = .qualified) :
    setLead r s = { s with clock := { s.clock with lead := leadOf s.now } } := if_pos ⟨hc, hq⟩

theorem setLead_other (h : s.clock.current ≠ r.source ∨ (s.clock.ref r).state ≠ .qualified) : setLead r s = s :=
  if_neg (not_and_or.mpr h)

theorem leadOf_eq (t : Nat) : leadOf t =
    if ((t % 1000 : Nat) : Int) ≤ 500 then ((t % 1000 : Nat) : Int) else ((t % 1000 : Nat) : Int) - 1000 :=
  if_congr (by omega) rfl rfl

theorem timeBeacon_of_asks {f : Frame} {rest : List Frame} (asks : s.Asks .c f rest) (hk : f.kind = Kind.timeBeacon)
    (hl : f.payload = []) : execTimeBeacon .c s =
      .next ((mark .beacon (s.taken .c rest)).ack .c f
        (let t := mark .beacon (s.taken .c rest)
         [t.clock.beacon.state.byte] ++ le 1 (if t.clock.beacon.state = .starting then t.clock.beacon.count else 0)
          ++ [sourceByte t.clock.current])) := by
  have served := serve_control (layout := Layout.empty) (a := ()) timeBeacon asks hk (by rw [hl]; rfl) (by decide)
  refine served.trans (congrArg _ ?_)
  dsimp only
  rw [← SourceState.le_code, ← le_source_code]
  rfl

end Marks

/-- Settles O32: a mark by whether its reference and its period are there and good; a missing period; the lead. -/
theorem marksAreTaken : Obligations.MarksAreTaken := by
  refine ⟨fun s => ?marks, fun s r hh hw => ifDue_of_due (missingDue_iff.mpr ⟨hh, hw⟩), fun s r =>
    ⟨fun hc hq => (setLead_set hc hq).trans (by rw [leadOf_eq]), setLead_other⟩⟩
  intro marked good
  refine ⟨fun r u => ⟨mark_first, fun t h hg => ?good, fun t h hg => ?bad⟩, fun hh => ifDue_of_due (by simp [hh]),
    fun f rest asks hk hl => timeBeacon_of_asks asks hk hl⟩
  case good => exact (mark_period h).trans (if_pos ((goodPeriod_iff r _).mpr hg))
  case bad => exact (mark_period h).trans (if_neg ((goodPeriod_iff r _).not.mpr hg))

/-! ### Failures (O34) -/

section Failures

variable {s : State} {x : Source}

theorem fallbackTarget_eq (c : Timebase) (x : Source) :
    fallbackTarget c x = if c.xo.state = .qualified ∧ (x = .sync ∨ x = .beacon) then .xo else .rc := by
  have ranks : x.rank < Source.xo.rank ↔ x = .sync ∨ x = .beacon := by cases x <;> decide
  rw [fallbackTarget]
  simp only [ranks]

/-- A CLOCK NOTICE written out (R137, R201). -/
theorem clockNoticePayload_eq (cls : Nat) (before : Source) (c : Timebase) (cancelled : Option Source) :
    clockNoticePayload cls before c cancelled = le 1 cls ++ le 6 c.courseTime ++ le 1 before.code ++ le 1 c.current.code
      ++ le 1 c.current.code ++ le 1 (requestedCode c.requested) ++ le 1 (yesNo c.clockFail)
      ++ le 1 (requestedCode cancelled) := by
  rw [clockNoticePayload, le_source_quality, ← le_source_code]

theorem sourceFailed_other (h : s.clock.current ≠ x) : sourceFailed x s = s := if_neg h

theorem sourceFailed_kept (h : s.clock.current = x) (hf : s.clock.failSafe = false) :
    sourceFailed x s = raiseFault .timebase x.code s := by
  rw [sourceFailed, if_pos h, hf]
  rfl

theorem sourceFailed_falls (h : s.clock.current = x) (hf : s.clock.failSafe = true) :
    sourceFailed x s = fallback x (raiseFault .timebase x.code s) := by
  rw [sourceFailed, if_pos h, hf]
  rfl

/-- A fallback written out: the target, the request that it satisfies, the notice (R141). -/
theorem fallback_eq (x : Source) (s : State) :
    fallback x s =
      let target := if s.clock.xo.state = .qualified ∧ (x = .sync ∨ x = .beacon) then .xo else .rc
      let requested := if s.clock.requested = some target then none else s.clock.requested
      { s with clock := { s.clock with
          current := target, lead := 0, clockFail := true, requested := requested, fallbackDue := false } }.notice
        Kind.clockNotice (le 1 1 ++ le 6 s.now ++ le 1 x.code ++ le 1 target.code ++ le 1 target.code
          ++ le 1 (requestedCode requested) ++ le 1 1 ++ le 1 0xFF) := by
  rw [fallback, clockNoticePayload_eq, Timebase.fallBack, fallbackTarget_eq]
  rfl

end Failures

/-- Settles O34: by whether the failed source is the current one, and fail-safe on. -/
theorem sourceFailureTaken : Obligations.SourceFailureTaken := by
  intro s x code fallen
  have code_eq (y : Source) : y.code = code y := by cases y <;> rfl
  have requested_eq (o : Option Source) : requestedCode o = match o with | none => 255 | some y => code y := by
    cases o with
    | none => rfl
    | some y => exact code_eq y
  have falls (u : State) (hc : u.clock = s.clock) : fallback x u = fallen u := by
    have now : u.now = s.now := congrArg Timebase.courseTime hc
    rw [fallback_eq]
    dsimp only
    rw [hc, now, code_eq, code_eq, requested_eq]
    rfl
  refine ⟨sourceFailed_other, fun h hf => ?kept, fun h hf => ?falls, fun hh h hd => ?deferred⟩
  case kept => rw [sourceFailed_kept h hf, code_eq]
  case falls => rw [sourceFailed_falls h hf, code_eq, falls _ (raiseFault_clock s _ _)]
  case deferred =>
    refine (ifDue_of_due (deferredDue_iff.mpr ⟨hh, hd⟩)).trans ?_
    rw [h, falls s rfl]

/-! ### The XO (O35) -/

section Xo

variable {s : State} {x : XoState} {cycles : Nat}

theorem windowGood_iff : windowGood cycles = true ↔ 7946240 ≤ cycles ∧ cycles ≤ 8437760 := by
  simp [windowGood]

theorem XoState.gap_eq (x : XoState) : x.gap =
    { state := if x.state = .qualified then .failed else x.state, count := 0, windowGap := true } := rfl

theorem XoState.windowEnd_starting (h : x.state = .starting) : x.windowEnd cycles = { x with windowGap := false } := by
  rw [windowEnd, h]

theorem XoState.windowEnd_qualified (h : x.state = .qualified) : x.windowEnd cycles =
    { x with windowGap := false, state := if windowGood cycles then .qualified else .failed } := by
  rw [windowEnd, h]

theorem XoState.windowEnd_failed (h : x.state = .failed) : x.windowEnd cycles =
    if windowGood cycles && !x.windowGap then { state := .starting, count := 0, windowGap := false }
    else { x with windowGap := false } := by
  rw [windowEnd, h]

/-- The part with the XO moved to another state. -/
def State.withXo (s : State) (y : XoState) : State := { s with clock := { s.clock with xo := y } }

theorem xoGap_qualified (hh : s.held = false) (h : s.clock.xo.state = .qualified) :
    execXoGap s = .next (sourceFailed .xo (s.withXo s.clock.xo.gap)) :=
  (ifDue_of_due (by simp [hh])).trans (congrArg _ (if_pos h))

theorem xoGap_other (hh : s.held = false) (h : s.clock.xo.state ≠ .qualified) :
    execXoGap s = .next (s.withXo s.clock.xo.gap) :=
  (ifDue_of_due (by simp [hh])).trans (congrArg _ (if_neg h))

theorem comparisonWindowEnd_fails (hh : s.held = false) (h : s.clock.xo.state = .qualified)
    (hf : (s.clock.xo.windowEnd cycles).state = .failed) :
    execComparisonWindowEnd cycles s = .next (sourceFailed .xo (s.withXo (s.clock.xo.windowEnd cycles))) :=
  (ifDue_of_due (by simp [hh])).trans (congrArg _ (if_pos ⟨h, hf⟩))

theorem comparisonWindowEnd_other (hh : s.held = false)
    (h : s.clock.xo.state = .qualified → (s.clock.xo.windowEnd cycles).state ≠ .failed) :
    execComparisonWindowEnd cycles s = .next (s.withXo (s.clock.xo.windowEnd cycles)) :=
  (ifDue_of_due (by simp [hh])).trans (congrArg _ (if_neg fun ⟨hq, hf⟩ => h hq hf))

end Xo

/-- Settles O35: a qualification, a gap and the end of a window, each by the state of the XO. -/
theorem xoIsJudged : Obligations.XoIsJudged := by
  intro s cycles hh x moved good
  have not_good (h : ¬ good) : windowGood cycles = false := Bool.eq_false_iff.mpr (windowGood_iff.not.mpr h)
  refine ⟨fun hs => ⟨fun hc => ifDue_of_due (xoDue_iff.mpr ⟨hh, hs, hc⟩), ?startingGap, ?startingEnd⟩,
    fun hs => ⟨?qualifiedGap, fun hg => ?qualifiedGood, fun hg => ?qualifiedBad⟩,
    fun hs => ⟨?failedGap, fun hg hw => ?failedGood, fun hg => ?failedBad⟩⟩
  case startingGap =>
    have hn : s.clock.xo.state ≠ .qualified := by rw [hs]; decide
    exact (xoGap_other hh hn).trans (by rw [XoState.gap_eq, if_neg hn]; rfl)
  case startingEnd =>
    refine (comparisonWindowEnd_other hh fun hq => by cases hq.symm.trans hs).trans ?_
    rw [XoState.windowEnd_starting hs]
    rfl
  case qualifiedGap => exact (xoGap_qualified hh hs).trans (by rw [XoState.gap_eq, if_pos hs]; rfl)
  case qualifiedGood =>
    have stays : s.clock.xo.windowEnd cycles = { x with windowGap := false } := by
      rw [XoState.windowEnd_qualified hs, if_pos (windowGood_iff.mpr hg), ← hs]
    refine (comparisonWindowEnd_other hh fun _ => ?_).trans (by rw [stays]; rfl)
    rw [stays]
    exact fun hf => by cases hf.symm.trans hs
  case qualifiedBad =>
    have fails : s.clock.xo.windowEnd cycles = { x with state := .failed, windowGap := false } := by
      rw [XoState.windowEnd_qualified hs, not_good hg]
      rfl
    exact (comparisonWindowEnd_fails hh hs (by rw [fails])).trans (by rw [fails]; rfl)
  case failedGap =>
    have hn : s.clock.xo.state ≠ .qualified := by rw [hs]; decide
    exact (xoGap_other hh hn).trans (by rw [XoState.gap_eq, if_neg hn]; rfl)
  case failedGood =>
    refine (comparisonWindowEnd_other hh fun hq => by cases hq.symm.trans hs).trans ?_
    rw [XoState.windowEnd_failed hs, windowGood_iff.mpr hg, show s.clock.xo.windowGap = false from hw]
    rfl
  case failedBad =>
    have stays : (windowGood cycles && !s.clock.xo.windowGap) = false := by
      rcases hg with hg | hw
      · rw [not_good hg, Bool.false_and]
      · rw [show s.clock.xo.windowGap = true from hw, Bool.not_true, Bool.and_false]
    refine (comparisonWindowEnd_other hh fun hq => by cases hq.symm.trans hs).trans ?_
    rw [XoState.windowEnd_failed hs, stays]
    rfl

/-! ### Switches (O36) -/

section Switches

variable {s : State} {x : Source}

theorem switchCompletion_eq (hh : s.held = false) (hz : s.now % 1000 = 0) (ht : s.clock.secondTaken ≠ s.now)
    (hd : s.clock.fallbackDue = false) : execSwitchCompletion s = .next (switchSecond s) :=
  ifDue_of_due (secondDue_iff.mpr ⟨hh, hz, ht, hd⟩)

theorem switchSecond_switches (h : s.clock.readyRequest = some x) :
    switchSecond s = { s with clock := { s.clock with
        current := x, requested := none, lead := 0, secondTaken := s.now } }.notice Kind.clockNotice
      (le 1 0 ++ le 6 s.now ++ le 1 s.clock.current.code ++ le 1 x.code ++ le 1 x.code ++ le 1 0xFF
        ++ le 1 (yesNo s.clock.clockFail) ++ le 1 0xFF) := by
  rw [switchSecond, h]
  dsimp only
  rw [clockNoticePayload_eq]
  rfl

theorem switchSecond_passes (h : s.clock.readyRequest = none) :
    switchSecond s = { s with clock := { s.clock with secondTaken := s.now } } := by
  rw [switchSecond, h]

theorem Timebase.readyRequest_none {c : Timebase} (h : ∀ x, c.requested = some x → c.sourceState x ≠ .qualified) :
    c.readyRequest = none :=
  Option.eq_none_iff_forall_ne_some.mpr fun x hx =>
    have ⟨requested, ready⟩ := Timebase.readyRequest_some.mp hx
    h x requested ready

end Switches

/-- Settles O36: the event of a whole second, by whether a request is ready. -/
theorem switchCompletes : Obligations.SwitchCompletes := by
  intro s hh code
  have code_eq (y : Source) : y.code = code y := by cases y <;> rfl
  refine ⟨fun hz => ifDue_of_not fun due => hz (secondDue_iff.mp due).2.1, fun hz ht hd => ⟨fun r hr hq => ?_, fun hn => ?_⟩⟩
  · refine (switchCompletion_eq hh hz ht hd).trans ?_
    rw [switchSecond_switches (Timebase.readyRequest_some.mpr ⟨hr, hq⟩), code_eq, code_eq]
    rfl
  · exact (switchCompletion_eq hh hz ht hd).trans (congrArg _ (switchSecond_passes (Timebase.readyRequest_none hn)))

/-! ### CLOCK SELECT (O37) -/

section Select

variable {s : State} {x : Source} {code : Nat}

theorem Source.ofCode_code (x : Source) : Source.ofCode? x.code = some x := by cases x <;> rfl

theorem clockSelect_out_of_range (h : 3 < code) : clockSelect code s = .error .range := by
  match code, h with
  | _ + 4, _ => rfl

theorem Source.exists_code (h : code ≤ 3) : ∃ x : Source, code = x.code := by
  match code, h with
  | 0, _ => exact ⟨.sync, rfl⟩
  | 1, _ => exact ⟨.beacon, rfl⟩
  | 2, _ => exact ⟨.xo, rfl⟩
  | 3, _ => exact ⟨.rc, rfl⟩

theorem clockSelect_locked (hl : s.clock.lock = true) (hf : s.clock.clockFail = false) :
    clockSelect x.code s = .error .locked := by
  rw [clockSelect, Source.ofCode_code]
  exact if_pos (by simp [hl, hf])

theorem clockSelect_selects (h : ¬ (s.clock.lock = true ∧ s.clock.clockFail = false)) :
    clockSelect x.code s = .ok (selectSource x s) := by
  rw [clockSelect, Source.ofCode_code]
  exact if_neg (by simpa using h)

theorem selectSource_nothing (h : x = s.clock.current) (hr : s.clock.requested = none) :
    selectSource x s = (s, le 1 0 ++ le 1 (requestedCode s.clock.requested) ++ ones 6) := by
  have unchanged : { s with clock := { s.clock with requested := none } } = s := by rw [← hr]
  rw [selectSource, if_pos h]
  dsimp only
  rw [hr, unchanged]

/-- The current source is selected: a pending request is cancelled with its notice (R138). -/
theorem selectSource_cancels {old : Source} (h : x = s.clock.current) (hr : s.clock.requested = some old) :
    selectSource x s = ({ s with clock := { s.clock with requested := none } }.notice Kind.clockNotice
      (le 1 2 ++ le 6 s.now ++ le 1 x.code ++ le 1 x.code ++ le 1 x.code ++ le 1 0xFF ++ le 1 (yesNo s.clock.clockFail)
        ++ le 1 old.code), le 1 0 ++ le 1 (requestedCode s.clock.requested) ++ ones 6) := by
  rw [selectSource, if_pos h]
  dsimp only
  rw [hr]
  dsimp only
  rw [clockNoticePayload_eq, h]
  rfl

theorem selectSource_scheduled (h : x ≠ s.clock.current) (hq : s.clock.sourceState x = .qualified) :
    selectSource x s = ({ s with clock := { s.clock with requested := some x } },
      le 1 1 ++ le 1 (requestedCode s.clock.requested) ++ le 6 (nextWholeSecond s)) := by
  rw [selectSource, if_neg h]
  exact if_pos hq

theorem selectSource_waiting (h : x ≠ s.clock.current) (hq : s.clock.sourceState x ≠ .qualified) :
    selectSource x s = ({ s with clock := { s.clock with requested := some x } },
      le 1 2 ++ le 1 (requestedCode s.clock.requested) ++ ones 6) := by
  rw [selectSource, if_neg h]
  exact if_neg hq

theorem nextWholeSecond_eq (hh : s.held = false) : nextWholeSecond s =
    if s.now % 1000 = 0 ∧ s.clock.secondTaken ≠ s.now then s.now else (s.now / 1000 + 1) * 1000 :=
  if_congr (wholeSecond_iff.trans (and_iff_right hh)) rfl rfl

end Select

/-- Settles O37: RANGE, LOCKED, and then by whether the source is the current one, and qualified. -/
theorem clockSelectTaken : Obligations.ClockSelectTaken := by
  intro s f rest code asks hk hl u c value before locked
  have value_eq (y : Source) : y.code = value y := by cases y <;> rfl
  have before_eq : le 1 (requestedCode u.clock.requested) = before := by
    change le 1 (requestedCode s.clock.requested) = le 1 (match s.clock.requested with | none => 255 | some y => value y)
    cases s.clock.requested with
    | none => rfl
    | some y => exact congrArg (le 1) (value_eq y)
  have served := serve_control clockSelect asks hk hl (by decide)
  have accepts {x : Source} {t : State} {results : List Byte} (hx : code = value x)
      (h : clockSelect x.code u = .ok (t, results)) : exec (.clockSelect .c) s = .next (t.ack .c f results) :=
    served.trans (congrArg _ (answered_accepted (by rw [hx, ← value_eq]; exact h)))
  refine ⟨fun hc => ?range, fun hc hlock => ?locked, fun x hx hfree => ⟨fun h hr => ?nothing, fun old h hr => ?cancelled,
    fun h hq => ?scheduled, fun h hq => ?waiting⟩⟩
  case range => exact served.trans (congrArg _ (answered_refused (clockSelect_out_of_range hc)))
  case locked =>
    obtain ⟨x, rfl⟩ := Source.exists_code hc
    exact served.trans (congrArg _ (answered_refused (clockSelect_locked (s := u) hlock.1 hlock.2)))
  case nothing =>
    have reply := (clockSelect_selects (s := u) hfree).trans (congrArg Except.ok (selectSource_nothing (s := u) h hr))
    exact (accepts hx reply).trans (by rw [before_eq]; rfl)
  case cancelled =>
    have reply := (clockSelect_selects (s := u) hfree).trans (congrArg Except.ok (selectSource_cancels (s := u) h hr))
    exact (accepts hx reply).trans (by rw [before_eq, value_eq, value_eq]; rfl)
  case scheduled =>
    have reply := (clockSelect_selects (s := u) hfree).trans (congrArg Except.ok (selectSource_scheduled (s := u) h hq))
    exact (accepts hx reply).trans (by rw [before_eq, nextWholeSecond_eq (s := u) asks.1]; rfl)
  case waiting =>
    have reply := (clockSelect_selects (s := u) hfree).trans (congrArg Except.ok (selectSource_waiting (s := u) h hq))
    exact (accepts hx reply).trans (by rw [before_eq]; rfl)

/-! ### Lock, flag and setup (O38) -/

section ClockRequests

variable {s : State} {enable target : Byte}

theorem StartTarget.ofCode_none {n : Nat} (h : 2 < n) : StartTarget.ofCode? n = none := by
  match n, h with
  | _ + 3, _ => rfl

theorem onOff?_none {b : Byte} (h0 : b ≠ 0#8) (h1 : b ≠ 1#8) : onOff? b.toNat = none := by
  rw [← Option.isNone_iff_eq_none, onOff?_isNone_iff]
  bv_omega

theorem clockSetup_out_of_range
    (h : (enable ≠ 0#8 ∧ enable ≠ 1#8) ∨ (target ≠ 0#8 ∧ target ≠ 1#8 ∧ target ≠ 2#8)) :
    clockSetup (enable.toNat, target.toNat) s = .error .range := by
  rcases h with ⟨h0, h1⟩ | ⟨h0, h1, h2⟩
  · rw [clockSetup, onOff?_none h0 h1]
  · rw [clockSetup, StartTarget.ofCode_none (by bv_omega)]
    cases onOff? enable.toNat <;> rfl

/-- The source that a start-target byte names; read for the bytes 0 to 2 alone. -/
def startTargetOf (target : Byte) : StartTarget := if target = 0#8 then .sync else if target = 1#8 then .beacon else .xo

theorem clockSetup_fields
    (h : ¬ ((enable ≠ 0#8 ∧ enable ≠ 1#8) ∨ (target ≠ 0#8 ∧ target ≠ 1#8 ∧ target ≠ 2#8))) :
    onOff? enable.toNat = some (decide (enable = 1#8)) ∧ StartTarget.ofCode? target.toNat = some (startTargetOf target) ∧
      le 1 (yesNo (decide (enable = 1#8))) = [enable] ∧ le 1 (startTargetOf target).code = [target] := by
  have on : enable = 0#8 ∨ enable = 1#8 := by tauto
  have source : target = 0#8 ∨ target = 1#8 ∨ target = 2#8 := by tauto
  obtain ⟨start, code⟩ : StartTarget.ofCode? target.toNat = some (startTargetOf target) ∧
      le 1 (startTargetOf target).code = [target] := by
    rcases source with rfl | rfl | rfl <;> exact ⟨rfl, rfl⟩
  rcases on with rfl | rfl <;> exact ⟨rfl, start, rfl, code⟩

theorem clockSetup_locked
    (h : ¬ ((enable ≠ 0#8 ∧ enable ≠ 1#8) ∨ (target ≠ 0#8 ∧ target ≠ 1#8 ∧ target ≠ 2#8))) (hl : s.clock.lock = true) :
    clockSetup (enable.toNat, target.toNat) s = .error .locked := by
  obtain ⟨on, start, -, -⟩ := clockSetup_fields h
  rw [clockSetup, on, start]
  exact if_pos hl

theorem clockSetup_sets
    (h : ¬ ((enable ≠ 0#8 ∧ enable ≠ 1#8) ∨ (target ≠ 0#8 ∧ target ≠ 1#8 ∧ target ≠ 2#8))) (hl : s.clock.lock = false) :
    clockSetup (enable.toNat, target.toNat) s = .ok ({ s with clock := { s.clock with
        failSafe := decide (enable = 1#8)
        fallbackDue := s.clock.fallbackDue || (decide (enable = 1#8) && !s.clock.failSafe &&
          decide (s.clock.sourceState s.clock.current = .failed))
        startTarget := startTargetOf target } }, [enable, target]) := by
  have failed : (s.clock.sourceState s.clock.current == .failed) =
      decide (s.clock.sourceState s.clock.current = .failed) := by
    cases s.clock.sourceState s.clock.current <;> rfl
  obtain ⟨on, start, first, second⟩ := clockSetup_fields h
  rw [clockSetup, on, start]
  dsimp only
  rw [if_neg (by simp [hl]), first, second, failed]
  rfl

theorem clockLock_of_asks {f : Frame} {rest : List Frame} (asks : s.Asks .c f rest) (hk : f.kind = Kind.clockLock)
    (hl : f.payload = []) : execClockLock .c s = .next (State.ack
      { s.taken .c rest with clock := { s.clock with lock := true } } .c f ([1#8] ++ le 1 (yesNo s.clock.clockFail))) :=
  serve_control (layout := Layout.empty) (a := ()) clockLock asks hk (by rw [hl]; rfl) (by decide)

theorem clockFailClear_of_asks {f : Frame} {rest : List Frame} (asks : s.Asks .c f rest)
    (hk : f.kind = Kind.clockFailClear) (hl : f.payload = []) : execClockFailClear .c s = .next (State.ack
      { s.taken .c rest with clock := { s.clock with clockFail := false } } .c f (le 1 (yesNo s.clock.lock) ++ [0#8])) :=
  serve_control (layout := Layout.empty) (a := ()) clockFailClear asks hk (by rw [hl]; rfl) (by decide)

end ClockRequests

/-- Settles O38: the lock and the flag are set without a check; the setup is checked RANGE, LOCKED. -/
theorem clockRequestsTaken : Obligations.ClockRequestsTaken := by
  intro s f rest asks u
  refine ⟨clockLock_of_asks asks, clockFailClear_of_asks asks, fun enable target hk hl => ?_⟩
  have served := serve_control (layout := Layout.clockSetup) (a := (enable.toNat, target.toNat)) clockSetup asks hk
    (by rw [hl]; rfl) (by decide)
  intro bad
  exact ⟨fun h => served.trans (congrArg _ (answered_refused (clockSetup_out_of_range h))),
    fun h hlock => served.trans (congrArg _ (answered_refused (clockSetup_locked (s := u) h hlock))),
    fun h hlock => served.trans (congrArg _ (answered_accepted (clockSetup_sets (s := u) h hlock)))⟩

/-! ### The slew (O39) -/

/-- Settles O39: the two cases of a due slew, within course time. -/
theorem leadSlews : Obligations.LeadSlews := by
  intro s hh slewed
  refine ⟨fun hl ho hn => ?shortens, fun hl ho hn hw => ?lengthens⟩
  case shortens =>
    have due : slewDue s = true := slewDue_iff.mpr ⟨hh, .inl ⟨hl, ho⟩⟩
    refine (if_pos due).trans ?_
    rw [if_pos hl, advanceTime_next hn, slewLead, if_pos hl]
  case lengthens =>
    have not_waiting : switchWaits s = false := by
      rw [Bool.eq_false_iff, ne_eq, switchWaits_iff]
      rintro ⟨-, hz, ht, x, hr, hq⟩
      rcases hw with h | h | h
      · exact h hz
      · exact ht h
      · exact h x hr hq
    have due : slewDue s = true := slewDue_iff.mpr ⟨hh, .inr ⟨hl, ho, not_waiting⟩⟩
    have not_positive : ¬ 0 < s.clock.lead := by omega
    refine (if_pos due).trans ?_
    rw [if_neg not_positive, advanceTime_next hn, slewLead, if_neg not_positive, if_pos hl]

end Sys2Proof.Machine
end

section
/-! SUPPORT. AMEND and CROSSING ENTER: their refusals in order, and what an accepted one does (O41, O42). -/

namespace Sys2Proof.Machine

/-! ### The refusals of AMEND (O41) -/

/-- What AMEND asks of its bib and pass (R154). -/
def State.AmendRange (s : State) (bib pass : Nat) : Prop :=
  (1 ≤ bib ∧ bib ≤ 60000) ∧ (1 ≤ pass ∧ pass ≤ 2) ∧ pass ≤ s.engine.point.passes

/-- What AMEND asks of its time in a race begun at `e` (R154). -/
def State.AmendTime (s : State) (bib time e : Nat) : Prop :=
  gunBound s (s.dir.record bib).fields ≤ time ∧ time ≤ s.now - e ∧ time ≤ 86400000

section AmendRefusals

variable {s : State} {bib pass time e : Nat}

theorem not_bibOk_iff : (!bibOk bib) = true ↔ ¬ (1 ≤ bib ∧ bib ≤ 60000) := by
  rw [Bool.not_eq_true', ← Bool.not_eq_true, bibOk_iff]

theorem amendRange_iff :
    (!bibOk bib) = true ∨ pass = 0 ∨ 2 < pass ∨ s.engine.point.passes < pass ↔ ¬ s.AmendRange bib pass := by
  rw [not_bibOk_iff, State.AmendRange]
  omega

theorem amendTime_iff (he : s.clock.epoch = some e) :
    s.raceNow?.any (fun now => decide (time < gunBound s (s.dir.record bib).fields) || decide (now < time)
      || decide (maxRaceTime < time)) = true ↔ ¬ s.AmendTime bib time e := by
  have bound : maxRaceTime = 86400000 := rfl
  rw [State.raceNow?_running he, Option.any_some, State.AmendTime]
  simp only [Bool.or_eq_true, decide_eq_true_eq]
  omega

theorem amend_refuses {why : Reason} (h : amendRefusal bib pass time s = some why) :
    amend (bib, pass, time) s = .error why := by
  rw [amend, h]

theorem amend_accepts (h : amendRefusal bib pass time s = none) :
    amend (bib, pass, time) s = .ok (acceptAmend bib pass time s) := by
  rw [amend, h]

theorem amendRefusal_range (h : ¬ s.AmendRange bib pass) : amendRefusal bib pass time s = some .range :=
  if_pos (amendRange_iff.mpr h)

theorem amendRefusal_unset (h : s.AmendRange bib pass) (he : s.clock.epoch = none) :
    amendRefusal bib pass time s = some .state := by
  refine (if_neg (amendRange_iff.not.mpr (not_not.mpr h))).trans ?_
  rw [State.raceNow?_unset he, he]
  rfl

theorem amendRefusal_time (h : s.AmendRange bib pass) (he : s.clock.epoch = some e) (ht : ¬ s.AmendTime bib time e) :
    amendRefusal bib pass time s = some .range :=
  (if_neg (amendRange_iff.not.mpr (not_not.mpr h))).trans (if_pos ((amendTime_iff he).mpr ht))

/-- The checks behind those of the range and the clock. -/
theorem amendRefusal_running (h : s.AmendRange bib pass) (he : s.clock.epoch = some e) (ht : s.AmendTime bib time e) :
    amendRefusal bib pass time s =
      if (s.engine.find? bib).any (fun c => c.pass == pass) then some .state
      else if s.log.closed then some .full
      else if (s.dir.record bib).fields.made < pass then some .unknown
      else none := by
  refine (if_neg (amendRange_iff.not.mpr (not_not.mpr h))).trans
    ((if_neg ((amendTime_iff he).not.mpr (not_not.mpr ht))).trans (if_neg ?_))
  rw [he]
  exact Bool.false_ne_true

theorem settling_iff : (s.engine.find? bib).any (fun c => c.pass == pass) = true ↔
    ∃ c, s.engine.find? bib = some c ∧ c.pass = pass := by
  simp [Option.any_eq_true]

variable (h : s.AmendRange bib pass) (he : s.clock.epoch = some e) (ht : s.AmendTime bib time e)

include h he ht

theorem amendRefusal_settling (hs : ∃ c, s.engine.find? bib = some c ∧ c.pass = pass) :
    amendRefusal bib pass time s = some .state :=
  (amendRefusal_running h he ht).trans (if_pos (settling_iff.mpr hs))

variable (hs : ¬ ∃ c, s.engine.find? bib = some c ∧ c.pass = pass)

include hs

theorem amendRefusal_full (hf : 4294847295 ≤ s.log.newest) : amendRefusal bib pass time s = some .full := by
  rw [amendRefusal_running h he ht, if_neg (settling_iff.not.mpr hs), if_pos (SplitLog.closed_iff.mpr hf)]

variable (hf : s.log.newest < 4294847295)

include hf

theorem amendRefusal_unknown (hm : (s.dir.record bib).fields.made < pass) :
    amendRefusal bib pass time s = some .unknown := by
  rw [amendRefusal_running h he ht, if_neg (settling_iff.not.mpr hs),
    if_neg (SplitLog.closed_iff.not.mpr (Nat.not_le.mpr hf)), if_pos hm]

theorem amendRefusal_none (hm : pass ≤ (s.dir.record bib).fields.made) : amendRefusal bib pass time s = none := by
  rw [amendRefusal_running h he ht, if_neg (settling_iff.not.mpr hs),
    if_neg (SplitLog.closed_iff.not.mpr (Nat.not_le.mpr hf)), if_neg (Nat.not_lt.mpr hm)]

end AmendRefusals

/-! ### An accepted AMEND -/

section AmendAccepted

variable {s : State} {bib pass time : Nat}

theorem refersTo_iff {x : LogEntry} : x.refersTo bib pass = true ↔
    x.bib = bib ∧ (∃ y, x.figures = some y ∧ y.pass = pass) ∧ (x.kind = .posted ∨ x.kind = .manual ∨ x.kind = .amended) := by
  simp [LogEntry.refersTo, Option.any_eq_true, and_assoc, or_assoc]

/-- The reference entry is the last of its kind in the log. -/
theorem reference_some {l : SplitLog} {before after : List LogEntry} {x : LogEntry} (h : l.entries = before ++ x :: after)
    (hx : x.refersTo bib pass = true) (ha : ∀ y ∈ after, ¬ y.refersTo bib pass = true) : l.reference bib pass = some x := by
  have newer : after.reverse.find? (·.refersTo bib pass) = none := List.find?_eq_none.mpr (by simpa using ha)
  rw [SplitLog.reference, h, List.reverse_append, List.reverse_cons, List.append_assoc, List.find?_append, newer]
  simp [hx]

theorem reference_none {l : SplitLog} (h : ∀ y ∈ l.entries, ¬ y.refersTo bib pass = true) : l.reference bib pass = none :=
  List.find?_eq_none.mpr (by simpa using h)

theorem quality_approx (s : State) : s.quality.approx = decide (s.clock.current = .xo ∨ s.clock.current = .rc) := by
  rw [State.quality]
  cases s.clock.current <;> rfl

theorem holds_iff (b : Board) : b.holds bib pass = true ↔
    (∃ x ∈ b.lead, x.bib = bib ∧ x.pass = pass) ∨ (∃ x ∈ b.feat, x.bib = bib ∧ x.pass = pass) ∨
      (∃ x ∈ b.flow, x.bib = bib ∧ x.pass = pass) := by
  simp [Board.holds]

/-- The flags of an AMENDED entry written out (R92). -/
theorem amendedFlags_eq (rd : RecordFields) (reference : Option LogEntry) (s : State) :
    amendedFlags rd s.quality (reference.map LogEntry.flags) =
      ⟨rd.featured, (reference.map (fun x => x.flags.bothFeeds)).getD false,
        s.clock.current = .xo ∨ s.clock.current = .rc, false, (reference.map (fun x => x.flags.held)).getD false,
        rd.start = none⟩ := by
  have start : rd.start.isNone = decide (rd.start = none) := by cases rd.start <;> rfl
  rw [amendedFlags, quality_approx, start, Option.map_map, Option.map_map]
  rfl

/-- An accepted AMEND by its reference entry, the figures and flags written out (R155). -/
theorem acceptAmend_eq {reference : Option LogEntry} (href : s.log.reference bib pass = reference) :
    acceptAmend bib pass time s =
      let rd := (s.dir.record bib).fields
      let gun := gunBound s rd
      let distance := if pass ≤ 1 then s.engine.point.distance1 else s.engine.point.distance2
      let chip := match rd.start with | some x => time - x | none => time - gun
      let figs : Figures := ⟨pass, time, time - gun, chip, min 4294967295 (chip * 1000 / distance)⟩
      let place := reference.bind LogEntry.place
      ({ s with
          dir := if pass = rd.made then s.dir.write bib { rd with last := some time } else s.dir
          log := s.log.append .amended bib (some figs) place
            ⟨rd.featured, (reference.map (fun x => x.flags.bothFeeds)).getD false,
              s.clock.current = .xo ∨ s.clock.current = .rc, false, (reference.map (fun x => x.flags.held)).getD false,
              rd.start = none⟩
          board := s.board.amend bib pass (chip / 1000) figs.pace },
        le 4 (s.log.newest + 1) ++ le 4 figs.gunSplit ++ le 4 chip ++ le 4 figs.pace ++ le 2 (place.getD 0)
          ++ [if s.board.holds bib pass then 1#8 else 0#8]) := by
  rw [acceptAmend, href]
  dsimp only
  rw [figures_eq, amendedFlags_eq, le_yesNo]
  rfl

end AmendAccepted

/-- Settles O41: the refusals in their order; accepted, the record, the log and the lanes by the reference entry. -/
theorem amendTaken : Obligations.AmendTaken := by
  intro s f rest bib pass time asks hk hl u r gun refused inRange inTime settling isReference
  have served := serve_control amend asks hk hl (by decide)
  have refuses {why : Reason} (h : amendRefusal bib pass time u = some why) : refused why :=
    served.trans (congrArg _ (answered_refused (amend_refuses h)))
  refine ⟨fun hr => refuses (amendRefusal_range hr), fun hr he => refuses (amendRefusal_unset hr he), fun e hr he =>
    ⟨fun ht => refuses (amendRefusal_time hr he ht), fun ht hs => refuses (amendRefusal_settling hr he ht hs),
      fun ht hs hf => refuses (amendRefusal_full hr he ht hs hf),
      fun ht hs hf hm => refuses (amendRefusal_unknown hr he ht hs hf hm), fun reference href ht hs hf hm => ?accepted⟩⟩
  case accepted =>
    have no_refusal : amendRefusal bib pass time u = none := amendRefusal_none hr he ht hs hf hm
    have found : u.log.reference bib pass = reference := by
      rcases href with ⟨before, x, after, rfl, hlog, hx, ha⟩ | ⟨rfl, hlog⟩
      · exact reference_some hlog (refersTo_iff.mpr hx) fun y hy => refersTo_iff.not.mpr (ha y hy)
      · exact reference_none fun y hy => refersTo_iff.not.mpr (hlog y hy)
    have reply := (amend_accepts no_refusal).trans (congrArg Except.ok (acceptAmend_eq found))
    refine (served.trans (congrArg _ (answered_accepted reply))).trans ?_
    dsimp only
    rw [if_congr (holds_iff u.board) rfl rfl]
    rfl

/-! ### The refusals of CROSSING ENTER (O42) -/

/-- What CROSSING ENTER asks of its time in a race begun at `e` (R157). -/
def State.EnterTime (s : State) (bib time e : Nat) : Prop :=
  (∀ gun, s.dir.waveGun (s.dir.record bib).fields.wave = some gun → gun ≤ time) ∧
    (∀ t, (s.dir.record bib).fields.last = some t → t ≤ time) ∧ time ≤ s.now - e ∧ time ≤ 86400000

/-- What CROSSING ENTER asks of the runner (R157). -/
def State.EnterReady (s : State) (bib : Nat) : Prop :=
  (s.dir.record bib).fields.state = .entered ∧ (s.dir.waveGun (s.dir.record bib).fields.wave).isSome ∧
    s.engine.find? bib = none ∧ (s.dir.record bib).fields.made < s.engine.point.passes

section EnterRefusals

variable {s : State} {bib time e : Nat}

theorem enterTime_iff (he : s.clock.epoch = some e) :
    s.raceNow?.any (fun now => (s.dir.waveGun (s.dir.record bib).fields.wave).any (fun g => decide (time < g))
      || (s.dir.record bib).fields.last.any (fun t => decide (time < t)) || decide (now < time)
      || decide (maxRaceTime < time)) = true ↔ ¬ s.EnterTime bib time e := by
  have bound : maxRaceTime = 86400000 := rfl
  rw [State.raceNow?_running he, Option.any_some, State.EnterTime, bound]
  simp only [Bool.or_eq_true, decide_eq_true_eq, Option.any_eq_true, not_and_or, not_forall, Nat.not_le, exists_prop,
    or_assoc]

theorem enterReady_iff :
    (s.dir.record bib).fields.state ≠ .entered ∨ (s.dir.waveGun (s.dir.record bib).fields.wave).isNone = true ∨
      (s.engine.find? bib).isSome = true ∨ s.engine.point.passes ≤ (s.dir.record bib).fields.made ↔ ¬ s.EnterReady bib := by
  simp only [State.EnterReady, not_and_or, Nat.not_lt, ne_eq, Bool.not_eq_true, Option.isSome_eq_false_iff,
    Option.isNone_iff_eq_none, ← Option.isSome_iff_ne_none]

theorem enterRefusal_range (h : ¬ (1 ≤ bib ∧ bib ≤ 60000)) : enterRefusal bib time s = some .range :=
  if_pos (not_bibOk_iff.mpr h)

theorem enterRefusal_unset (h : 1 ≤ bib ∧ bib ≤ 60000) (he : s.clock.epoch = none) :
    enterRefusal bib time s = some .state := by
  refine (if_neg (not_bibOk_iff.not.mpr (not_not.mpr h))).trans ?_
  rw [State.raceNow?_unset he, he]
  rfl

theorem enterRefusal_time (h : 1 ≤ bib ∧ bib ≤ 60000) (he : s.clock.epoch = some e) (ht : ¬ s.EnterTime bib time e) :
    enterRefusal bib time s = some .range :=
  (if_neg (not_bibOk_iff.not.mpr (not_not.mpr h))).trans (if_pos ((enterTime_iff he).mpr ht))

theorem enterRefusal_not_ready (h : 1 ≤ bib ∧ bib ≤ 60000) (he : s.clock.epoch = some e) (ht : s.EnterTime bib time e)
    (hr : ¬ s.EnterReady bib) : enterRefusal bib time s = some .state :=
  (if_neg (not_bibOk_iff.not.mpr (not_not.mpr h))).trans
    ((if_neg ((enterTime_iff he).not.mpr (not_not.mpr ht))).trans (if_pos (.inr (enterReady_iff.mpr hr))))

theorem enterRefusal_none (h : 1 ≤ bib ∧ bib ≤ 60000) (he : s.clock.epoch = some e) (ht : s.EnterTime bib time e)
    (hr : s.EnterReady bib) : enterRefusal bib time s = none := by
  refine (if_neg (not_bibOk_iff.not.mpr (not_not.mpr h))).trans
    ((if_neg ((enterTime_iff he).not.mpr (not_not.mpr ht))).trans (if_neg (not_or.mpr ⟨?_, ?_⟩)))
  · rw [he]
    exact Bool.false_ne_true
  · exact enterReady_iff.not.mpr (not_not.mpr hr)

theorem crossingEnter_refuses {why : Reason} (h : enterRefusal bib time s = some why) :
    crossingEnter (bib, time) s = .error why := by
  rw [crossingEnter, h]

theorem crossingEnter_accepts (h : enterRefusal bib time s = none) (he : s.clock.epoch = some e) :
    crossingEnter (bib, time) s = .ok ((post (manualInput bib time s) (s.now - e) s).2,
      enterResults (post (manualInput bib time s) (s.now - e) s).1) := by
  rw [crossingEnter, h, State.raceNow?_running he]

theorem enterResults_eq (x : Posted) : enterResults x =
    le 1 x.figures.pass ++ le 2 x.place ++ le 4 x.seq ++ le 4 x.figures.gunSplit ++ le 4 x.figures.chipSplit
      ++ le 4 x.figures.pace ++ le 1 (x.flags.byte false) ++ [if x.flags.late then 0#8 else 1#8] := by
  rw [enterResults, le_yesNo]
  cases x.flags.late <;> rfl

end EnterRefusals

/-- Settles O42: the refusals in their order; accepted, the posting of the next pass and its figures. -/
theorem crossingEnterTaken : Obligations.CrossingEnterTaken := by
  intro s f rest bib time asks hk hl u r refused bibOk inTime ready
  have served := serve_control crossingEnter asks hk hl (by decide)
  have refuses {why : Reason} (h : enterRefusal bib time u = some why) : refused why :=
    served.trans (congrArg _ (answered_refused (crossingEnter_refuses h)))
  refine ⟨fun hb => refuses (enterRefusal_range hb), fun hb he => refuses (enterRefusal_unset hb he),
    fun e hb he ht => refuses (enterRefusal_time hb he ht), fun e hb he ht hr => refuses (enterRefusal_not_ready hb he ht hr),
    fun e hb he ht hr => ?accepted⟩
  intro quality posted x
  have same_quality : u.quality = quality := rfl
  have input : manualInput bib time u = ⟨.manual, bib, r.made + 1, time, quality, false, false⟩ := by
    rw [manualInput, same_quality]
    rfl
  have accepted := crossingEnter_accepts (s := u) (enterRefusal_none hb he ht hr) he
  have sequence : x.seq = s.log.newest + 1 := (post_seq _ _ u).1
  have pass : x.figures.pass = r.made + 1 := (post_seq _ _ u).2.1
  rw [input] at accepted
  refine (served.trans (congrArg _ (answered_accepted accepted))).trans ?_
  change Host.Outcome.next (posted.2.ack .c f (enterResults x)) = _
  rw [enterResults_eq, sequence, pass]

end Sys2Proof.Machine
end

section
/-! SUPPORT. What is stored and read back, the setup block, and the restarts (O13, O46 to O49). -/

namespace Sys2Proof.Machine

/-! ### Stored content (O13) -/

theorem recordUpset_writes {s : State} {bib : Nat} {content : RecordFields} (hlow : 1 ≤ bib) (hhigh : bib ≤ 60000)
    (h : content.inRange = true) : execRecordUpset bib content s =
      .next { s with dir := s.dir.setRecord bib { s.dir.record bib with fields := content } } :=
  ifDue_of_due (Bool.and_eq_true_iff.mpr ⟨bibOk_iff.mpr ⟨hlow, hhigh⟩, h⟩)

/-- Settles O13: each store returns what was last written at a key, whatever its form; an upset leaves the check code. -/
theorem storedContentReadsBack : Obligations.StoredContentReadsBack := by
  refine ⟨fun d bib x wave gun pass division n _ hd => ⟨d.record_write bib x, fun b hb => d.record_write_other x hb,
    d.waveGun_startWave wave gun, fun w hw => d.waveGun_startWave_other gun hw, d.place_setPlace pass division n,
    fun q e he hne => d.place_setPlace_other n hne hd he⟩, fun s => ⟨fun bib content hlow hhigh h => ?_, fun items => rfl⟩⟩
  exact ⟨_, recordUpset_writes hlow hhigh h, fun _ => ⟨s.dir.record_setRecord bib _,
    fun b hb => s.dir.record_setRecord_other _ hb⟩, rfl, rfl, rfl, rfl⟩

/-! ### SETUP STORE (O46) -/

section Setup

variable {s : State} {p : Port} {f : Frame} {rest : List Frame}

theorem setupStore_of_asks (asks : s.Asks .c f rest) (hk : f.kind = Kind.setupStore) (hl : f.payload = []) :
    execSetupStore .c s = .next { s.setPort .c { s.port .c with buffer := rest, inWork := some f } with
      setup := { s.setup with writing := some ⟨workingSettings s, s.now⟩ } } := by
  have fits : Layout.empty f.payload = some () := by rw [hl]; rfl
  have role : Kind.taken Port.c.role f.kind = true := by rw [hk]; decide
  rw [execSetupStore, takeFrame_of_asks asks (row := ofKind _) (beq_iff_eq.mpr hk)]
  dsimp only
  rw [checked_fits beginStore _ fits role]
  rfl

theorem setupWriteEnd_of_writing {w : SetupWrite} (hh : s.held = false) (hw : s.setup.writing = some w)
    (hf : (s.port .c).inWork = some f) : execSetupWriteEnd s = .next (State.ack
      { s.setPort .c { s.port .c with inWork := none } with setup := ⟨⟨w.copy, some w.copy⟩, none⟩ } .c f []) := by
  rw [execSetupWriteEnd, hw, hf]
  exact ifDue_of_due (by simp [hh])

end Setup

/-- Settles O46: the take copies the working settings, the end of the write stores the copy. -/
theorem setupIsStored : Obligations.SetupIsStored := fun _ _ _ =>
  ⟨setupStore_of_asks, fun _ => setupWriteEnd_of_writing⟩

/-! ### Sending and RESTART (O47) -/

section Restart

variable {s : State} {p : Port}

theorem frameSent_eq {x : TxFrame} {rest : List TxFrame} (hh : s.held = false) (h : (s.port p).tx = x :: rest) :
    execFrameSent p s = .next { s.setPort p { s.port p with tx := rest } with restartDue := s.restartDue || x.restart } := by
  rw [execFrameSent, h]
  exact if_neg (by simp [hh])

theorem restart_of_asks {f : Frame} {rest : List Frame} (asks : s.Asks .c f rest) (hk : f.kind = Kind.restart)
    (hl : f.payload = []) : execRestart .c s = .next ((s.taken .c rest).answer .c (ackFrame f []) true) := by
  have fits : Layout.empty f.payload = some () := by rw [hl]; rfl
  have role : Kind.taken Port.c.role f.kind = true := by rw [hk]; decide
  rw [execRestart, takeFrame_of_asks asks (row := ofKind _) (beq_iff_eq.mpr hk)]
  dsimp only
  rw [checked_fits _ _ fits role]

end Restart

/-- Settles O47: a sent frame leaves its queue, RESTART marks its ACK, and a restart follows its cause. -/
theorem restartIsTaken : Obligations.RestartIsTaken :=
  ⟨fun _ _ _ _ => frameSent_eq, fun s => ⟨fun _ _ => restart_of_asks, fun hh => ⟨ifDue_of_due (by simp [hh]),
    fun hd => ifDue_of_due (by simp [hh, hd]), fun hd => ifDue_of_not (by simp [hd])⟩⟩⟩

/-! ### The warm restart (O48) -/

section Warm

variable {s : State} {returned : List HoldEntry} {r : ReleasedRead}

theorem SetupStore.cut_eq (x : SetupStore) :
    x.cut = if x.writing = none then x else ⟨{ x.block with codedFor := none }, none⟩ := by
  unfold SetupStore.cut
  split
  · rename_i h
    rw [if_neg (by simp [h])]
  · rename_i h
    rw [if_pos h]

theorem listed_iff : (returned ++ s.hold.list).any (fun e => e.chip == r.chip) = true ↔
    ∃ e ∈ returned ++ s.hold.list, e.chip = r.chip := by
  simp only [List.any_eq_true, beq_iff_eq]

theorem returnRead_merges (h : ∃ e ∈ returned ++ s.hold.list, e.chip = r.chip) : returnRead (returned, s) r =
    (returned.map (fun e => if e.chip = r.chip then e.rejoin r else e),
      { s with hold := { s.hold with list := s.hold.list.map (fun e => if e.chip = r.chip then e.rejoin r else e) } }) :=
  if_pos (listed_iff.mpr h)

theorem returnRead_new (h : ∀ e ∈ returned ++ s.hold.list, e.chip ≠ r.chip) : returnRead (returned, s) r =
    if (returned ++ s.hold.list).length < holdCap then (returned ++ [r.entry s.now], s)
    else (returned, discardHold r.feed r.chip s) :=
  if_neg (listed_iff.not.mpr fun ⟨e, member, same⟩ => h e member same)

end Warm

/-- Settles O48: the blocks by their restarts; a returned read by whether its chip code is listed and a place is free. -/
theorem warmRestartActs : Obligations.WarmRestartActs := by
  refine ⟨fun s => ?blocks, fun s returned r => ⟨returnRead_merges, fun h hl => ?enters, fun h hl => ?discarded, rfl⟩⟩
  case blocks =>
    intro port feed
    rw [warmRestart, SetupStore.cut_eq]
    rfl
  case enters => exact (returnRead_new h).trans (if_pos hl)
  case discarded =>
    exact (returnRead_new h).trans (if_neg (Nat.not_lt.mpr hl))

/-! ### The cold reset and the load (O49) -/

section Cold

variable {s : State}

theorem resetRisingEdge_loads (hh : s.held = true) :
    execResetRisingEdge s = .next (loadSetup { s with held := false }) := ifDue_of_due hh

theorem loadSetup_passes (h : s.setup.block.codedFor = some s.setup.block.items) :
    loadSetup s = s.withSettings s.setup.block.items := if_pos (decide_eq_true h)

theorem loadSetup_fails (h : s.setup.block.codedFor ≠ some s.setup.block.items) :
    loadSetup s = raiseFault .setup 0 (s.withSettings defaultSettings) :=
  if_neg fun passes => h (of_decide_eq_true passes)

theorem cut_block (x : SetupStore) :
    x.cut.block = if x.writing = none then x.block else { x.block with codedFor := none } := by
  rw [SetupStore.cut_eq]
  split <;> rfl

theorem cold_port (rate : LineRate) (block : SetupBlock) (p : Port) : (State.cold rate block).port p = PortState.cold := by
  cases p with
  | a | b | c | d => rfl

theorem cold_feed (rate : LineRate) (block : SetupBlock) (x : Feed) : (State.cold rate block).feed x = FeedState.cold := by
  cases x with
  | a | b => rfl

theorem cold_ref (rate : LineRate) (block : SetupBlock) (r : Reference) :
    (State.cold rate block).clock.ref r = RefState.cold := by
  cases r with
  | sync | beacon => rfl

theorem cold_counts (o : ReadOutcome) : FeedState.cold.counts.get o = 0 := by
  cases o <;> rfl

end Cold

/-- Settles O49: the reset gives the cold state, the edge loads the block or every default. -/
theorem coldResetActs : Obligations.ColdResetActs := by
  refine ⟨fun s strap1 strap0 => ?resets, fun rate block => ?cold⟩
  case resets =>
    intro rate block
    refine ⟨?_, fun hh => ifDue_of_not (by simp [hh]), fun hh => ?_⟩
    · have straps : LineRate.ofStraps strap1 strap0 = rate := by cases strap1 <;> cases strap0 <;> rfl
      change execColdReset strap1 strap0 s = _
      rw [execColdReset, straps, cut_block]
    · intro loaded
      have loads (x : Settings) : State.withSettings { s with held := false } x = loaded x := rfl
      exact ⟨fun h => (resetRisingEdge_loads hh).trans (congrArg _ ((loadSetup_passes (s := { s with held := false }) h).trans
          (loads _))),
        fun h => (resetRisingEdge_loads hh).trans (congrArg _ ((loadSetup_fails (s := { s with held := false }) h).trans
          (congrArg (raiseFault .setup 0) (loads _))))⟩
  case cold =>
    intro s
    have port (p : Port) : s.port p = PortState.cold := cold_port rate block p
    have feed (x : Feed) : s.feed x = FeedState.cold := cold_feed rate block x
    have ref (r : Reference) : s.clock.ref r = RefState.cold := cold_ref rate block r
    have faults (k : FaultKind) : s.faults.set.get k = FaultItem.never := cold_faultItem rate block k
    exact ⟨rfl, rfl, rfl, rfl, rfl, rfl, rfl, rfl, rfl, rfl, rfl, rfl, rfl, rfl, rfl, rfl,
      fun p => by rw [port]; rfl, fun p => by rw [port]; exact ⟨rfl, rfl, rfl, rfl, rfl⟩,
      fun x o => by rw [feed]; exact ⟨rfl, rfl, rfl, rfl, cold_counts o⟩, fun bib => ⟨rfl, rfl⟩,
      rfl, fun w => rfl, fun p d => rfl, rfl, rfl, rfl, rfl, rfl, rfl, rfl, rfl, rfl, rfl, rfl, rfl, rfl, rfl, rfl, rfl, rfl, rfl,
      fun r => by rw [ref]; exact ⟨rfl, rfl, rfl, rfl⟩, rfl, rfl, rfl, rfl, rfl, rfl, rfl, rfl, rfl, faults⟩

end Sys2Proof.Machine
end

section
/-! SUPPORT. Frames on the line, and the layouts of the requests (O50 to O52). -/

namespace Sys2Proof.Machine

/-! ### Frames (O50) -/

section Frames

theorem content_length (f : Frame) : f.content.length = f.payload.length + 3 := by
  simp only [Frame.content, List.length_cons, List.length_append, le_length]
  omega

theorem frameOf_content (f : Frame) : frameOf f.content = f := by
  have tag : u16 1 f.content = f.tag.toNat := fieldAt_le 2 f.tag.toNat f.payload f.tag.isLt
  rw [frameOf, tag, BitVec.ofNat_toNat, BitVec.setWidth_eq]
  rfl

/-- What a line amounts to, by the length that its first bytes give. -/
theorem scan_of_length {n : Nat} (b : Byte) (body : List Byte) (hn : n < 65536) : scan (b :: (le 2 n ++ body)) =
    if n < 3 ∨ 1020 < n then .badLength
    else if body.length < n + 2 then .partialFrame
    else if crc (le 2 n ++ body.take n) = BitVec.ofNat 16 (u16 n body) then
      .arrived (frameOf (body.take n)) (body.drop (n + 2))
    else .badCrc := by
  have length : leNat (le 2 n) = n := leNat_le 2 n hn
  change (if leNat (le 2 n) < 3 ∨ 1020 < leNat (le 2 n) then Scan.badLength
    else if body.length < leNat (le 2 n) + 2 then .partialFrame
    else if crc (le 2 n ++ body.take (leNat (le 2 n))) = BitVec.ofNat 16 (u16 (leNat (le 2 n)) body) then
      .arrived (frameOf (body.take (leNat (le 2 n)))) (body.drop (leNat (le 2 n) + 2))
    else .badCrc) = _
  rw [length]

/-- A whole frame's bytes: they arrive exactly when the CRC is the one of its content. -/
theorem scan_whole {content : List Byte} (b : Byte) (w : BitVec 16) (rest : List Byte) (hlow : 3 ≤ content.length)
    (hhigh : content.length ≤ 1020) :
    scan (b :: (le 2 content.length ++ (content ++ (le 2 w.toNat ++ rest)))) =
      if crc (le 2 content.length ++ content) = w then .arrived (frameOf content) rest else .badCrc := by
  have sent : u16 content.length (content ++ (le 2 w.toNat ++ rest)) = w.toNat := by
    rw [u16, fieldAt_skip 2 _ rfl le_rfl, Nat.sub_self, fieldAt_le 2 w.toNat rest w.isLt]
  have whole : ¬ (content ++ (le 2 w.toNat ++ rest)).length < content.length + 2 := by
    simp only [List.length_append, le_length]
    omega
  have after : (content ++ (le 2 w.toNat ++ rest)).drop (content.length + 2) = rest := by
    rw [← List.append_assoc, List.drop_left' (by simp)]
  rw [scan_of_length b _ (by omega), if_neg (by omega), if_neg whole, List.take_left' rfl, sent, after, BitVec.ofNat_toNat,
    BitVec.setWidth_eq]

theorem wire_eq (f : Frame) : f.wire = 0xC3#8 :: (le 2 f.content.length ++ (f.content ++
    le 2 (crc (le 2 f.content.length ++ f.content)).toNat)) := by
  simp [Frame.wire, startByte]

/-- A frame cut short is still being assembled. -/
theorem scan_cut {content : List Byte} (b : Byte) (w : BitVec 16) {n : Nat} (hlow : 3 ≤ content.length)
    (hhigh : content.length ≤ 1020) (hn : n < content.length + 5) :
    scan ((b :: (le 2 content.length ++ (content ++ le 2 w.toNat))).take n) = .partialFrame := by
  match n, hn with
  | 0, _ | 1, _ | 2, _ => rfl
  | n + 3, hn =>
    have short : ((content ++ le 2 w.toNat).take n).length < content.length + 2 := by
      rw [List.length_take]
      omega
    have cut : (b :: (le 2 content.length ++ (content ++ le 2 w.toNat))).take (n + 3) =
        b :: (le 2 content.length ++ (content ++ le 2 w.toNat).take n) := rfl
    rw [cut, scan_of_length b _ (by omega), if_neg (by omega), if_pos short]

end Frames

/-- Settles O50: a line is read by its length first, then by how much of the frame is there, then by its CRC. -/
theorem framesAreRecognised : Obligations.FramesAreRecognised := by
  intro f rest
  have length := content_length f
  refine ⟨fun hp => ⟨?length, by rw [wire_eq]; rfl, ?arrives, fun n hn => ?cut, fun w hw => ?altered⟩, fun n hn hbad => ?bad,
    rfl, rfl, fun b hb => ?hunting⟩
  case length =>
    rw [wire_eq]
    simp only [List.length_cons, List.length_append, le_length, length]
    omega
  case arrives =>
    rw [wire_eq, List.cons_append, List.append_assoc, List.append_assoc, scan_whole _ _ rest (by omega) (by omega), if_pos rfl,
      frameOf_content]
  case cut =>
    rw [wire_eq] at hn ⊢
    simp only [List.length_cons, List.length_append, le_length] at hn
    exact scan_cut _ _ (by omega) (by omega) (by omega)
  case altered =>
    rw [List.cons_append, List.cons_append, List.cons_append, List.append_assoc, List.append_assoc,
      scan_whole _ w rest (by omega) (by omega), if_neg hw.symm]
  case bad => exact (scan_of_length _ rest hn).trans (if_pos hbad)
  case hunting =>
    have passed : (b != startByte) = true := bne_iff_ne.mpr hb
    exact List.dropWhile_cons_of_pos (p := (· != startByte)) passed

/-! ### Fields of a payload read back (O51) -/

section Fields

variable {v : Nat} {a m : Nat} (tail : List Byte)

@[simp] theorem u8_le (h : v < 256) : u8 0 (le 1 v ++ tail) = v := fieldAt_le 1 v tail h

@[simp] theorem u16_le (h : v < 65536) : u16 0 (le 2 v ++ tail) = v := fieldAt_le 2 v tail h

@[simp] theorem u32_le (h : v < 4294967296) : u32 0 (le 4 v ++ tail) = v := fieldAt_le 4 v tail h

@[simp] theorem u8_le_end (h : v < 256) : u8 0 (le 1 v) = v := fieldAt_le_end 1 v h

@[simp] theorem u16_le_end (h : v < 65536) : u16 0 (le 2 v) = v := fieldAt_le_end 2 v h

@[simp] theorem u32_le_end (h : v < 4294967296) : u32 0 (le 4 v) = v := fieldAt_le_end 4 v h

@[simp] theorem u8_skip (h : m ≤ a) : u8 a (le m v ++ tail) = u8 (a - m) tail := fieldAt_skip_le 1 v tail h

@[simp] theorem u16_skip (h : m ≤ a) : u16 a (le m v ++ tail) = u16 (a - m) tail := fieldAt_skip_le 2 v tail h

@[simp] theorem u32_skip (h : m ≤ a) : u32 a (le m v ++ tail) = u32 (a - m) tail := fieldAt_skip_le 4 v tail h

@[simp] theorem u8_cons (b : Byte) : u8 (a + 1) (b :: tail) = u8 a tail := fieldAt_cons 1 a b tail

@[simp] theorem u16_cons (b : Byte) : u16 (a + 1) (b :: tail) = u16 a tail := fieldAt_cons 2 a b tail

@[simp] theorem u32_cons (b : Byte) : u32 (a + 1) (b :: tail) = u32 a tail := fieldAt_cons 4 a b tail

@[simp] theorem u8_byte (b : Byte) : u8 0 (b :: tail) = b.toNat := fieldAt_byte b tail

@[simp] theorem u16_zeros : u16 0 (0#8 :: 0#8 :: tail) = 0 := rfl

end Fields

/-! ### Lists of items read back -/

section Items

variable {α : Type} {g : α → List Byte} {n : Nat} {l : List α}

theorem flatMap_length_of_size (h : ∀ a, (g a).length = n) (l : List α) : (l.flatMap g).length = n * l.length := by
  simp [List.length_flatMap, h, Nat.mul_comm]

/-- A payload of a count, a byte and the items. -/
def counted (l : List α) (b : Byte) (g : α → List Byte) : List Byte := le 1 l.length ++ (b :: l.flatMap g)

variable (b : Byte) (h : ∀ a, (g a).length = n) (hl : l.length < 256)

include hl

theorem counted_count : u8 0 (counted l b g) = l.length := u8_le _ hl

omit hl

theorem counted_byte : u8 1 (counted l b g) = b.toNat := (u8_skip _ le_rfl).trans (u8_byte _ b)

include h

theorem counted_length : (counted l b g).length = 2 + n * l.length := by
  rw [counted, List.length_append, le_length, List.length_cons, flatMap_length_of_size h]
  omega

include hl

theorem counted_items : items n (u8 0 (counted l b g)) ((counted l b g).drop 2) = l.map g := by
  rw [counted_count b hl]
  exact items_flatMap g h l

end Items

/-! ### The layouts read back -/

section ReadBack

theorem getD_lt {o : Option Nat} {bound : Nat} (h : ∀ t ∈ o, t < bound + 1) : o.getD 0 < bound + 1 := by
  cases o with
  | none => exact Nat.succ_pos bound
  | some t => exact h t rfl

theorem report_reads_back {clockless : Bool} {q : Nat} {reads : List (Nat × Nat)} (hq : q < 8) (hl : reads.length < 256)
    (hr : ∀ r ∈ reads, r.1 < 4294967296 ∧ r.2 < 4294967296 ∧ (clockless = true → r.2 = 0)) :
    Layout.report (counted reads (BitVec.ofNat 8 (2 * q + yesNo clockless)) (fun r => le 4 r.1 ++ le 4 r.2))
      = some ⟨clockless, q, reads⟩ := by
  have hy := yesNo_lt clockless
  have flags : (BitVec.ofNat 8 (2 * q + yesNo clockless)).toNat = 2 * q + yesNo clockless :=
    BitVec.toNat_ofNat _ _ |>.trans (Nat.mod_eq_of_lt (by omega))
  have size (r : Nat × Nat) : (le 4 r.1 ++ le 4 r.2).length = 8 := by simp
  have fields : (reads.map (fun r => le 4 r.1 ++ le 4 r.2)).map (fun r => (u32 0 r, u32 4 r)) = reads := by
    refine (List.map_map ..).trans ((List.map_congr_left fun r member => ?_).trans (List.map_id reads))
    obtain ⟨hchip, htime, -⟩ := hr r member
    simp [hchip, htime]
  have parity : ((2 * q + yesNo clockless) % 2 == 1) = clockless := by cases clockless <;> simp [yesNo]
  have timeless : (clockless && reads.any (fun r => r.2 != 0)) = false := by
    cases clockless with
    | false => rfl
    | true => simpa using fun a b hab => (hr (a, b) hab).2.2 rfl
  rw [Layout.report, counted_items _ size hl, counted_length _ size, counted_count _ hl, counted_byte, flags, fields, parity,
    timeless, if_neg (by omega), if_neg (by omega), if_neg Bool.false_ne_true]
  congr
  omega

theorem runnerLoad_reads_back {rs : List Layout.LoadRecord} (hl : rs.length < 256)
    (hr : ∀ r ∈ rs, r.bib < 65536 ∧ r.wave < 256 ∧ r.division < 256 ∧ r.featured < 256 ∧ r.nameTag < 65536 ∧
      ∀ t ∈ r.start, t < 4294967296) :
    Layout.runnerLoad (counted rs 0#8 (fun r => le 2 r.bib ++ le 1 r.wave ++ le 1 r.division ++ le 1 r.featured
      ++ le 1 (yesNo r.start.isSome) ++ le 2 r.nameTag ++ le 4 (r.start.getD 0))) = some rs := by
  have size (r : Layout.LoadRecord) : (le 2 r.bib ++ le 1 r.wave ++ le 1 r.division ++ le 1 r.featured
      ++ le 1 (yesNo r.start.isSome) ++ le 2 r.nameTag ++ le 4 (r.start.getD 0)).length = 12 := by simp
  rw [Layout.runnerLoad, counted_items _ size hl, counted_length _ size, counted_count _ hl, counted_byte,
    if_neg (by simp; omega), List.map_map]
  refine (Layout.allSome_map_some (v := id) fun r member => ?_).trans (by rw [List.map_id])
  obtain ⟨hbib, hwave, hdivision, hfeatured, htag, hstart⟩ := hr r member
  have present : yesNo r.start.isSome < 256 := (yesNo_lt _).trans (by decide)
  have start : r.start.getD 0 < 4294967296 := getD_lt hstart
  simp [Layout.loadRecord, *, optional_some]

theorem rotationSet_reads_back {slots : List (Nat × Nat)} (hl : slots.length < 256)
    (hr : ∀ e ∈ slots, e.1 < 256 ∧ e.2 < 256) :
    Layout.rotationSet (counted slots 0#8 (fun e => le 1 e.1 ++ le 1 e.2)) = some slots := by
  have size (e : Nat × Nat) : (le 1 e.1 ++ le 1 e.2).length = 2 := by simp
  have fields : (slots.map (fun e => le 1 e.1 ++ le 1 e.2)).map (fun r => (u8 0 r, u8 1 r)) = slots := by
    refine (List.map_map ..).trans ((List.map_congr_left fun e member => ?_).trans (List.map_id slots))
    obtain ⟨hkind, hhold⟩ := hr e member
    simp [hkind, hhold]
  rw [Layout.rotationSet, counted_items _ size hl, counted_length _ size, counted_count _ hl, counted_byte, fields,
    if_neg (by simp; omega)]

end ReadBack

/-- Settles O51: each field is read at the offset where it was written. -/
theorem requestLayoutsReadBack : Obligations.RequestLayoutsReadBack := by
  refine ⟨fun v hv => ?one1, fun v hv => ?one2, fun v hv => ?one4,
    fun clockless q reads hq hl hr => (report_reads_back hq hl hr), fun rs hl hr => runnerLoad_reads_back hl hr,
    fun chip bib hc hb => ?alias_set, fun wave gun hw hg => ?waveStart, fun wave gun hw hg => ?waveSet,
    fun x hp h1 h2 hs hg hl => ?pointSet, fun x hc hr hb hz => ?holdResolve, fun x hr hl hf hw hd hq => ?boardSet,
    fun slots hl hr => rotationSet_reads_back hl hr, fun offset ho => ?gunSet, fun enable target he ht => ?clockSetup,
    fun bib pass time hb hp ht => ?amend, fun bib time hb ht => ?enter, fun x hc hk hb h0 h1 => ?clear⟩
  case one1 => exact (if_pos (le_length 1 v)).trans (by rw [leNat_le 1 v hv])
  case one2 => exact (if_pos (le_length 2 v)).trans (by rw [leNat_le 2 v hv])
  case one4 => exact (if_pos (le_length 4 v)).trans (by rw [leNat_le 4 v hv])
  case alias_set => simp [Layout.aliasSet, *]
  case waveStart =>
    have present : yesNo gun.isSome < 256 := (yesNo_lt _).trans (by decide)
    have time : gun.getD 0 < 4294967296 := getD_lt hg
    simp [Layout.waveStart, *, optional_some]
  case waveSet => simp [Layout.waveSet, *]
  case pointSet => simp [Layout.pointSet, *]
  case holdResolve => simpa [Layout.holdResolve, hc, hr, hb] using hz
  case boardSet => simp [Layout.boardSet, *]
  case gunSet =>
    have present : yesNo offset.isSome < 256 := (yesNo_lt _).trans (by decide)
    have time : offset.getD 0 < 4294967296 := getD_lt ho
    simp [Layout.gunSet, *, optional_some]
  case clockSetup => simp [Layout.clockSetup, *]
  case amend => simp [Layout.amend, *]
  case enter => simp [Layout.crossingEnter, *]
  case clear => simpa [Layout.faultClear, hc, hk, hb] using ⟨h0, h1⟩

/-! ### Content that does not fit (O52) -/

section Unfit

variable {pl : List Byte}

theorem u16_bytes (b z : Byte) (tail : List Byte) : u16 0 (b :: z :: tail) = b.toNat + 256 * z.toNat := by
  simp [u16, fieldAt, leNat]

/-- A field that takes all the bytes there are. -/
theorem fieldAt_whole {n : Nat} (h : pl.length = n) : fieldAt n 0 pl = leNat pl := by
  rw [fieldAt, List.drop_zero, List.take_of_length_le h.le]

theorem u16_whole (h : pl.length = 2) : u16 0 pl = leNat pl := fieldAt_whole h

theorem u32_whole (h : pl.length = 4) : u32 0 pl = leNat pl := fieldAt_whole h

theorem optional_bad_presence {presence : Nat} (value : Nat) (h0 : presence ≠ 0) (h1 : presence ≠ 1) :
    optional presence value = none := by
  simp [optional, h0, h1]

theorem optional_bad_value {value : Nat} (h : value ≠ 0) : optional 0 value = none := by
  simp [optional, h]

/-- The item at an index is listed. -/
theorem items_mem {size count i : Nat} (h : i < count) (bytes : List Byte) :
    (bytes.drop (size * i)).take size ∈ items size count bytes := by
  induction count generalizing i bytes with
  | zero => exact absurd h (Nat.not_lt_zero i)
  | succ count ih =>
    cases i with
    | zero => exact List.mem_cons_self
    | succ i =>
      have next : (bytes.drop (size * (i + 1))) = (bytes.drop size).drop (size * i) := by
        rw [List.drop_drop, Nat.mul_succ, Nat.add_comm]
      rw [next]
      exact List.mem_cons_of_mem _ (ih (Nat.lt_of_succ_lt_succ h) _)

/-- A field inside an item, read in the payload. -/
theorem fieldAt_item {n a size k : Nat} (h : a + n ≤ size) : fieldAt n a ((pl.drop k).take size) = fieldAt n (k + a) pl := by
  rw [fieldAt, fieldAt, List.drop_take, List.take_take, List.drop_drop, min_eq_left (by omega)]

theorem report_unfit_length (h : pl.length ≠ 2 + 8 * u8 0 pl) : Layout.report pl = none := if_pos (.inr h)

theorem runnerLoad_unfit_length (h : pl.length ≠ 2 + 12 * u8 0 pl) : Layout.runnerLoad pl = none := if_pos (.inr (.inl h))

theorem rotationSet_unfit_length (h : pl.length ≠ 2 + 2 * u8 0 pl) : Layout.rotationSet pl = none := if_pos (.inr (.inl h))

theorem runnerLoad_unfit_byte (h : u8 1 pl ≠ 0) : Layout.runnerLoad pl = none := if_pos (.inr (.inr h))

theorem rotationSet_unfit_byte (h : u8 1 pl ≠ 0) : Layout.rotationSet pl = none := if_pos (.inr (.inr h))

theorem report_unfit_flags (h : 16 ≤ u8 1 pl) : Layout.report pl = none := by
  rw [Layout.report, if_pos h, ite_self]

/-- A clockless report with a read that has a time. -/
theorem report_unfit_time {i : Nat} (hi : i < u8 0 pl) (hc : u8 1 pl % 2 = 1) (ht : u32 (8 * i + 6) pl ≠ 0) :
    Layout.report pl = none := by
  have field : u32 4 (((pl.drop 2).drop (8 * i)).take 8) = u32 (8 * i + 6) pl := by
    rw [List.drop_drop]
    exact (fieldAt_item (by decide)).trans (congrArg (fieldAt 4 · pl) (by omega))
  have timed : ((items 8 (u8 0 pl) (pl.drop 2)).map (fun r => (u32 0 r, u32 4 r))).any (fun r => r.2 != 0) = true :=
    List.any_eq_true.mpr ⟨_, List.mem_map_of_mem (items_mem hi (pl.drop 2)), bne_iff_ne.mpr (field ▸ ht)⟩
  have clockless : ((1 : Nat) == 1 && true) = true := rfl
  rw [Layout.report, timed, hc, if_pos clockless, ite_self, ite_self]

/-- A load record that does not fit. -/
theorem runnerLoad_unfit_record {i : Nat} (hi : i < u8 0 pl)
    (h : optional (u8 (12 * i + 7) pl) (u32 (12 * i + 10) pl) = none) : Layout.runnerLoad pl = none := by
  have presence : u8 5 (((pl.drop 2).drop (12 * i)).take 12) = u8 (12 * i + 7) pl := by
    rw [List.drop_drop]
    exact (fieldAt_item (by decide)).trans (congrArg (fieldAt 1 · pl) (by omega))
  have value : u32 8 (((pl.drop 2).drop (12 * i)).take 12) = u32 (12 * i + 10) pl := by
    rw [List.drop_drop]
    exact (fieldAt_item (by decide)).trans (congrArg (fieldAt 4 · pl) (by omega))
  have unread : Layout.loadRecord (((pl.drop 2).drop (12 * i)).take 12) = none := by
    rw [Layout.loadRecord, presence, value, h, Option.map_none]
  have listed : none ∈ (items 12 (u8 0 pl) (pl.drop 2)).map Layout.loadRecord :=
    List.mem_map.mpr ⟨_, items_mem hi (pl.drop 2), unread⟩
  rw [Layout.runnerLoad, Layout.allSome_of_none_mem listed, ite_self]

/-- An absent field of 4 bytes that is not zero. -/
theorem optional_absent (hl : pl.length = 4) (h : leNat pl ≠ 0) : optional 0 (u32 0 pl) = none :=
  optional_bad_value (by rwa [u32_whole hl])

theorem waveStart_unfit_value (w : Byte) (h : leNat pl ≠ 0) : Layout.waveStart (w :: 0#8 :: pl) = none := by
  rw [Layout.waveStart]
  split
  · rename_i hl
    have rest : pl.length = 4 := by simpa using hl
    simp [optional_absent rest h]
  · rfl

theorem gunSet_unfit_value (h : leNat pl ≠ 0) : Layout.gunSet (0#8 :: pl) = none := by
  rw [Layout.gunSet]
  split
  · rename_i hl
    have rest : pl.length = 4 := by simpa using hl
    simp [optional_absent rest h]
  · rfl

theorem holdResolve_unfit_bib (c0 c1 c2 c3 : Byte) (h : leNat pl ≠ 0) :
    Layout.holdResolve (c0 :: c1 :: c2 :: c3 :: 1#8 :: 0#8 :: pl) = none := by
  refine if_neg fun ⟨hl, _, hz⟩ => ?_
  have rest : pl.length = 2 := by simpa using hl
  exact h ((u16_whole rest).symm.trans (hz rfl))

theorem faultClear_unfit_bib (k : Byte) (h : leNat pl ≠ 0) : Layout.faultClear (0#8 :: k :: pl) = none := by
  refine if_neg fun ⟨hl, hz, _⟩ => ?_
  have rest : pl.length = 2 := by simpa using hl
  exact h ((u16_whole rest).symm.trans (hz rfl))

end Unfit

/-- Settles O52: the length, the reserved bytes and the optional fields, layout by layout. -/
theorem unfitContentIsRejected : Obligations.UnfitContentIsRejected := by
  intro b pl
  have nonzero (h : b ≠ 0#8) : b.toNat ≠ 0 := by bv_omega
  have notOne (h : b ≠ 1#8) : b.toNat ≠ 1 := by bv_omega
  refine ⟨fun h => if_neg h, fun n h => if_neg h, report_unfit_length, runnerLoad_unfit_length, rotationSet_unfit_length,
    fun h => ⟨if_neg h, if_neg h, if_neg fun x => h x.1⟩, fun h => if_neg fun x => h x.1,
    fun h => ⟨if_neg fun x => h x.1, if_neg fun x => h x.1, if_neg fun x => h x.1, if_neg fun x => h x.1⟩,
    fun h => if_neg h, fun h => if_neg h, fun h => if_neg fun x => h x.1, fun h => ?reserved,
    fun h n => report_unfit_flags (by simpa using h), fun h0 h1 => ?presence, fun h => ?value, fun h c0 c1 c2 c3 => ?reject,
    fun h k => ?ordinary, fun h => ?integrity, fun i hi hc ht => report_unfit_time hi hc ht,
    fun i hi h0 h1 => runnerLoad_unfit_record hi (optional_bad_presence _ h0 h1),
    fun i hi h0 ht => runnerLoad_unfit_record hi (by rw [h0]; exact optional_bad_value ht)⟩
  case reserved =>
    have hb := nonzero h
    refine ⟨fun n => runnerLoad_unfit_byte (by simpa using hb), fun w => ?_, fun x => ?_,
      fun n => rotationSet_unfit_byte (by simpa using hb), fun c0 c1 c2 c3 r => ?_, fun x0 x1 x2 x3 x4 => ?_,
      fun x0 x1 p => ?_, fun x0 x1 z => ⟨?_, ?_⟩⟩
    · simp [Layout.waveSet, hb]
    · simp [Layout.pointSet, hb]
    · simp [Layout.holdResolve, hb]
    · simp [Layout.boardSet, hb]
    · simp [Layout.amend, hb]
    · simp [Layout.crossingEnter, u16_bytes, hb]
    · simp [Layout.crossingEnter, u16_bytes, hb]
  case presence =>
    have hb := nonzero h0
    have hb1 := notOne h1
    exact ⟨fun w => by simp [Layout.waveStart, optional_bad_presence, hb, hb1],
      by simp [Layout.gunSet, optional_bad_presence, hb, hb1]⟩
  case value => exact ⟨fun w => waveStart_unfit_value w h, gunSet_unfit_value h⟩
  case reject => exact holdResolve_unfit_bib c0 c1 c2 c3 h
  case ordinary => exact faultClear_unfit_bib k h
  case integrity => simp [Layout.faultClear, nonzero h]

end Sys2Proof.Machine
end
